-- ==== Sys2Proof/Word.lean ====
section
/-! DEFINITION. The types of the engine's data: bytes, register words, blocks, byte strings and sub-keys. -/

namespace Sys2Proof

/-- An 8-bit unsigned value (R10). -/
abbrev Byte := BitVec 8

/-- A 32-bit CSR value, and a command word (R9, R36). -/
abbrev Word := BitVec 32

/-- A 64-bit operand held in a LO/HI register pair (R12). -/
abbrev DWord := BitVec 64

/-- A block as the 128-bit big-endian integer `int128` of its bytes (R10, R11): byte 0 is the most
significant byte and bit 7 of byte 0 is bit 127. -/
abbrev Block := BitVec 128

/-- A finite sequence of bytes, index 0 first (R10). -/
abbrev Bytes := List Byte

/-- A 32-byte sub-key (R7 `SUBKEY_BYTES`, R52). -/
abbrev Key := Vector Byte 32

end Sys2Proof
end

