-- ==== Sys2Proof/Syntax.lean ====
section
/-! DEFINITION. The commands of the engine: one constructor per row of the opcode table (R112). -/

namespace Sys2Proof

/-- A command. The command word has no register field, no immediate and no mode bit, and operands are never
in it (R110, R111), so no constructor has an argument. -/
inductive Instr
  /-- 0x00, R140: only completes. -/
  | nop
  /-- 0x01, R141: validate and split the staged key. -/
  | keyLoad
  /-- 0x02, R145: destroy the key and all derived state. -/
  | keyClear
  /-- 0x10, R174: seed the S2V chain. -/
  | s2vInit
  /-- 0x11, R175: absorb one non-final item. -/
  | s2vAd
  /-- 0x12, R176: process the final item and write V. -/
  | s2vFinal
  /-- 0x20, R201: apply the counter-mode keystream derived from V. -/
  | ctrXform
  /-- 0x21, R203: compare V with IVREF. -/
  | ivVerify
  /-- 0x30, R205: encrypt one message with one associated-data item. -/
  | sivEncrypt
  /-- 0x31, R209: decrypt and authenticate. -/
  | sivDecrypt
deriving DecidableEq, Repr

end Sys2Proof
end

