-- ==== Sys2Proof/WellFormed.lean ====
section
/-! DEFINITION. Well-formed command words (R110, R115). A term of `Instr` has no field, so there is nothing to check
in it: what can be ill formed is the 32-bit word written to CMD. -/

namespace Sys2Proof

/-- Bits [31:8], the RSVD field, are zero (R110). -/
def WellFormed.rsvdZero (w : Word) : Bool :=
  w.extractLsb' 8 24 == 0

/-- Bits [7:0], the OPCODE field, hold an assigned opcode (R112, R113, R115). -/
def WellFormed.opcodeAssigned (w : Word) : Bool :=
  [0x00, 0x01, 0x02, 0x10, 0x11, 0x12, 0x20, 0x21, 0x30, 0x31].contains (w.extractLsb' 0 8)

/-- A word that selects an assigned command. Every other word is illegal (R116). -/
def WellFormed.command (w : Word) : Bool :=
  WellFormed.rsvdZero w && WellFormed.opcodeAssigned w

end Sys2Proof
end

