-- ==== Sys2Proof/Decode.lean ====
section
/-! DEFINITION. Decoding of a command word (R110, R112, R115), and the encoder written from the same table. -/

namespace Sys2Proof

/-- Why a word, or a byte string, selects no command. -/
inductive DecodeError
  /-- RSVD is not zero (R115). -/
  | rsvdNonzero
  /-- OPCODE is outside R112's table. -/
  | unassignedOpcode
  /-- Fewer than the four bytes of a command word (R117). -/
  | tooShort
deriving DecidableEq, Repr

/-- The OPCODE field, bits [7:0] (R110). -/
def opcodeField (w : Word) : BitVec 8 := w.extractLsb' 0 8

/-- The RSVD field, bits [31:8] (R110). -/
def rsvdField (w : Word) : BitVec 24 := w.extractLsb' 8 24

/-- The opcode map (R112). -/
def Instr.opcode : Instr → BitVec 8
  | .nop => 0x00
  | .keyLoad => 0x01
  | .keyClear => 0x02
  | .s2vInit => 0x10
  | .s2vAd => 0x11
  | .s2vFinal => 0x12
  | .ctrXform => 0x20
  | .ivVerify => 0x21
  | .sivEncrypt => 0x30
  | .sivDecrypt => 0x31

/-- The command an OPCODE value selects, if it is assigned (R112, R113). -/
def Instr.ofOpcode (op : BitVec 8) : Option Instr :=
  if op = 0x00 then some .nop
  else if op = 0x01 then some .keyLoad
  else if op = 0x02 then some .keyClear
  else if op = 0x10 then some .s2vInit
  else if op = 0x11 then some .s2vAd
  else if op = 0x12 then some .s2vFinal
  else if op = 0x20 then some .ctrXform
  else if op = 0x21 then some .ivVerify
  else if op = 0x30 then some .sivEncrypt
  else if op = 0x31 then some .sivDecrypt
  else none

/-- R115: total on all 2^32 words; each selects exactly one command or is illegal. -/
def decode (w : Word) : Except DecodeError Instr :=
  if rsvdField w ≠ 0 then .error .rsvdNonzero
  else
    match Instr.ofOpcode (opcodeField w) with
    | some i => .ok i
    | none => .error .unassignedOpcode

/-- The 32-bit word that four bytes stand for, the least significant byte first: the byte order of the CSR lanes
(R46, R83; DESIGN CHOICE, log entry 18). -/
def wordOfBytes (b0 b1 b2 b3 : Byte) : Word := b3 ++ b2 ++ b1 ++ b0

/-- The four bytes of a word, the least significant first. -/
def wordToBytes (w : Word) : Bytes :=
  [w.extractLsb' 0 8, w.extractLsb' 8 8, w.extractLsb' 16 8, w.extractLsb' 24 8]

/-- Decode the command at the head of a byte string: the command and the bytes after it. -/
def decodeBytes : Bytes → Except DecodeError (Instr × Bytes)
  | b0 :: b1 :: b2 :: b3 :: rest =>
    match decode (wordOfBytes b0 b1 b2 b3) with
    | .ok i => .ok (i, rest)
    | .error e => .error e
  | _ => .error .tooShort

/-- R121: the word a host writes to CMD for a command. -/
def encode (i : Instr) : Word := i.opcode.setWidth 32

/-- The command word as bytes. -/
def encodeBytes (i : Instr) : Bytes := wordToBytes (encode i)

/-- The command word whose low `nbits` bits are `w`, every bit above them zero. -/
def tableWord (nbits w : Nat) : Word := BitVec.ofNat 32 (w % 2 ^ nbits)

/-- The host's form: the command this decoder reads from the instruction whose bits are `w`. A command is one
32-bit word (R117), so a number with a bit at or above bit 32 is none. -/
def decodeTableWord (nbits w : Nat) : Option Instr :=
  if 2 ^ 32 ≤ w % 2 ^ nbits then none
  else
    match decode (tableWord nbits w) with
    | .ok i => some i
    | .error _ => none

end Sys2Proof
end

