-- ==== Sys2Proof/Machine/Crypto.lean ====
section
/-! DEFINITION. The pure functions of the construction: byte order of blocks and CSR lanes, the S2V functions
(R160 to R168) and the counter-mode and SIV functions (R190 to R200). The two callouts are arguments here, so the
functions can be run on tabulated callouts; the meanings apply them to `Config.mac` and `Config.e`. -/

namespace Sys2Proof

/-! ### Byte order -/

/-- R11 `int128`: the big-endian integer of a byte string. -/
def int128 (bs : Bytes) : Nat := bs.foldl (fun acc x => acc * 256 + x.toNat) 0

/-- The block that 16 bytes are. -/
def bytesBlock (bs : Bytes) : Block := BitVec.ofNat 128 (int128 bs)

/-- R11 `blk`: the 16 bytes of a block, byte 0 the most significant. -/
def blockBytes (b : Block) : Bytes :=
  (List.range 16).map fun i => BitVec.ofNat 8 (b.toNat / 256 ^ (15 - i))

/-- R10 `xor`: the byte-wise exclusive OR of two strings of one length. -/
def xorBytes (a b : Bytes) : Bytes := List.zipWith (· ^^^ ·) a b

/-- The bytes of a CSR lane: byte `j` is bits [8j+7:8j] (R46, R47, R48). -/
def laneBytes (w : Word) : Bytes :=
  (List.range 4).map fun j => w.extractLsb' (8 * j) 8

/-- The word whose lane bytes are `b0 .. b3`. -/
def laneWord (b0 b1 b2 b3 : Byte) : Word := b3 ++ b2 ++ b1 ++ b0

/-- Word `i` of a block register: lane byte `j` is byte `4·i + j` of the block (R47, R48). -/
def blockWord (b : Block) (i : Nat) : Word :=
  let bs := blockBytes b
  laneWord (bs.getD (4 * i) 0) (bs.getD (4 * i + 1) 0) (bs.getD (4 * i + 2) 0) (bs.getD (4 * i + 3) 0)

/-- A block register after its word `i` is written (R47, R48). -/
def setBlockWord (b : Block) (i : Nat) (w : Word) : Block :=
  let bs := blockBytes b
  bytesBlock (bs.take (4 * i) ++ laneBytes w ++ bs.drop (4 * i + 4))

/-- R46: the 64 bytes that KEY_W0 .. KEY_W15 stage. -/
def keyBuf (kw : Vector Word 16) : Bytes := kw.toList.flatMap laneBytes

/-- The 32 bytes of a byte string from index `from_` on, as a sub-key (R143). -/
def keyAt (bs : Bytes) (from_ : Nat) : Key := Vector.ofFn fun i : Fin 32 => bs.getD (from_ + i) 0

/-! ### S2V -/

/-- R160: doubling in GF(2^128), the block read as a big-endian integer and the constant 0x87. -/
def dbl (b : Block) : Block :=
  if 2 ^ 127 ≤ b.toNat then (b <<< 1) ^^^ 0x87 else b <<< 1

/-- R162: a string of at most 15 bytes, then 0x80, then zeros up to 16 bytes. -/
def pad (s : Bytes) : Bytes := s ++ 0x80 :: List.replicate (15 - s.length) 0

/-- R163: the last 16 bytes of a string of at least 16 XORed with a block. -/
def xorend (s : Bytes) (d : Block) : Bytes :=
  s.take (s.length - 16) ++ xorBytes (s.drop (s.length - 16)) (blockBytes d)

/-- 0^16 as bytes. -/
def zeroBlock : Bytes := List.replicate 16 0

/-- R164 step 1: the seed of the chain. -/
def s2vSeed (mac : Key → Bytes → Block) (k : Key) : Block := mac k zeroBlock

/-- R164 step 2: one non-final item. -/
def s2vAbsorb (mac : Key → Bytes → Block) (k : Key) (d : Block) (s : Bytes) : Block :=
  dbl d ^^^ mac k s

/-- R164 step 3, R165: the string T of the final item. The branch is on the item's length alone. -/
def s2vLast (d : Block) (s : Bytes) : Bytes :=
  if 16 ≤ s.length then xorend s d else blockBytes (dbl d ^^^ bytesBlock (pad s))

/-- R164: S2V over the associated-data items `ads`, in order, and the final item `m`. -/
def s2v (mac : Key → Bytes → Block) (k : Key) (ads : List Bytes) (m : Bytes) : Block :=
  mac k (s2vLast (ads.foldl (s2vAbsorb mac k) (s2vSeed mac k)) m)

/-! ### Counter mode and SIV -/

/-- R7 `Q_MASK`, R190 and conflict C1: bits 63 and 31 of the big-endian integer are cleared. -/
def qMask : Block := 0xFFFFFFFFFFFFFFFF7FFFFFFF7FFFFFFF

/-- R190: the counter mask. -/
def mask (iv : Block) : Block := iv &&& qMask

/-- R192: counter `j`, the whole 128-bit integer incremented modulo 2^128. -/
def counter (q : Block) (j : Nat) : Block := q + BitVec.ofNat 128 j

/-- R193 `KS`: `n` bytes of keystream; the last block is truncated. -/
def keystream (e : Key → Block → Block) (k : Key) (q : Block) (n : Nat) : Bytes :=
  ((List.range ((n + 15) / 16)).flatMap fun j => blockBytes (e k (counter q j))).take n

/-- R193 `CTR`. -/
def ctr (e : Key → Block → Block) (k : Key) (iv : Block) (m : Bytes) : Bytes :=
  xorBytes m (keystream e k (mask iv) m.length)

/-- R196: all 16 bytes enter the accumulator, whatever their values. -/
def ctEq (a b : Block) : Bool :=
  (xorBytes (blockBytes a) (blockBytes b)).foldl (fun acc x => acc ||| x) 0 == 0

/-- R197: the reference encryption function. -/
def sivEnc (mac : Key → Bytes → Block) (e : Key → Block → Block) (k1 k2 : Key) (a m : Bytes) : Bytes :=
  let iv := s2v mac k1 [a] m
  blockBytes iv ++ ctr e k2 iv m

/-- R198: the reference decryption function, for an input of at least 16 bytes. -/
def sivDec (mac : Key → Bytes → Block) (e : Key → Block → Block) (k1 k2 : Key) (a c : Bytes) : Option Bytes :=
  let ivr := bytesBlock (c.take 16)
  let p := ctr e k2 ivr (c.drop 16)
  if ctEq (s2v mac k1 [a] p) ivr then some p else none

end Sys2Proof
end

