-- ==== Sys2Proof/Config.lean ====
section
/-! DEFINITION. What the spec leaves to the implementation or the platform (R8), and the free values the model
draws. Every constant here is opaque and has no body, so no proof can use a value of it (log entry 15). -/

namespace Sys2Proof

/-- The MAC callout `MAC(k, m)`: a total deterministic black box of which only the type is known (R19, R20). -/
opaque Config.mac : Key → Bytes → Block

/-- The block-cipher callout `E(k, b)`, a black box as well (R19, R21). -/
opaque Config.e : Key → Block → Block

/-- `CSR_BASE`, the platform's base address of the CSR window (R7, R8, U7; OPEN). -/
opaque Config.csrBase : DWord

/-- `DMA_COHERENT`: whether engine DMA is coherent with the host's caches (R7, R8, R98, U8; OPEN). -/
opaque Config.dmaCoherent : Bool

/-- The line of the host's caches that holds the byte at an address. R98 speaks of cached lines, and no rule gives their
size, so they are any partition of the addresses (log entry 10). -/
opaque Config.cacheLine : Nat → Nat

/-! ### Free values. The first argument is the number of the draw (`State.draws`), the second an index inside it. -/

/-- A free choice between two allowed outcomes (R85, R240, R273; U3, U18). -/
opaque Config.freeBool : Nat → Nat → Bool

/-- A free byte (R86, R94, R98; U1, U5). -/
opaque Config.freeByte : Nat → Nat → Byte

/-- A free choice among the copies of one byte: the number of the copy (R98, U8). -/
opaque Config.freeCopy : Nat → Nat → Nat

/-- A free value of V after a buffer race (R94, U1). -/
opaque Config.freeV : Nat → Block

/-- A free value of the accumulator after S2V_AD has read a raced item (R94, U1). -/
opaque Config.freeD : Nat → Block

/-- A free value of OUTLEN after a buffer race (R94, U1). -/
opaque Config.freeLen : Nat → DWord

/-- A free error code, by its number: `ERRCODE` is always one of the ten of R230 (R94, U1, U12). -/
opaque Config.freeErr : Nat → Fin 10

end Sys2Proof
end

