-- ==== Sys2Proof/Machine/State.lean ====
section
/-! DEFINITION. The state of the engine and of its surroundings, as plain data, and the state after reset. -/

namespace Sys2Proof.Machine

/-- The error codes of R230. The reserved codes 0x0A to 0xFF are never reported (U12), so they have no name. -/
inductive ErrCode
  | none
  | invalidKeySize
  | invalidCiphertext
  | authFailed
  | noKey
  | illegalCmd
  | s2vSequence
  | range
  | overlap
  | busError
deriving DecidableEq, Repr

/-- `st.STAGE`, the sequencer (R31, R52): `run w` from the acceptance of the word `w` (R114) to its completion. -/
inductive Stage
  | idle
  | run (w : Word)
deriving DecidableEq, Repr

/-- The byte range [base, base + len) of the DMA space. Addresses and lengths are exact integers (R15, R87). -/
structure Span where
  base : Nat
  len : Nat
deriving DecidableEq, Repr

/-- One turn of the outside world: what arrives at the engine's ports, what happens to the memory it shares, and
when the engine itself moves. The queue of these is `State.inbox`
(DESIGN CHOICE, log entry 3). -/
inductive Input
  /-- The host writes `size` bytes of `data` at offset `off` of the CSR window (R50, R119 `wr`). -/
  | csrWrite (off size : Nat) (data : Word)
  /-- The host reads `size` bytes at offset `off` of the CSR window (R50, R119 `rd`). -/
  | csrRead (off size : Nat)
  /-- The host stores bytes to DMA memory (R119 `mem`). -/
  | memStore (addr : DWord) (bytes : Bytes)
  /-- An agent that is neither the host nor the engine stores bytes to DMA memory (R94; log entry 24). -/
  | agentStore (addr : DWord) (bytes : Bytes)
  /-- The host loads `n` bytes of DMA memory. -/
  | memLoad (addr : DWord) (n : Nat)
  /-- The host writes a range back from its caches (R98). -/
  | cacheClean (span : Span)
  /-- The host invalidates a range in its caches (R98). -/
  | cacheInvalidate (span : Span)
  /-- The platform's reset input is asserted and released (R270, U9). -/
  | hwReset
  /-- The engine, not the outside world, takes this step. -/
  | engineTurn
deriving DecidableEq, Repr

/-- What the last access of the outside world was answered with. -/
inductive HostResp
  /-- No access since reset of the model. -/
  | none
  /-- A write, store or maintenance operation was taken. -/
  | done
  /-- The value of a CSR read. -/
  | data (w : Word)
  /-- The bytes of a memory load. -/
  | bytes (bs : Bytes)
  /-- The slave port's error response (R252). -/
  | slvErr
deriving DecidableEq, Repr

/-- DMA memory (R82): the bytes that differ from what an unlisted address reads as, by rising address. -/
abbrev Memory := List Host.Cell

/-- Why a step stops the run. -/
inductive Fault
  /-- Raised by a host load or store whose range passes the top of the DMA space: no such address exists (R82).
  Safe: the run stops where no hardware behaviour is described. -/
  | outsideDmaSpace
deriving DecidableEq, Repr

/-- Why a step is given no meaning. -/
inductive Refusal
  /-- Raised by `exec` for an instruction that has no meaning yet. Safe. -/
  | notModelled (mnemonic : String)
  /-- Raised by a command past its pre-checks, by the abort of one, and by a host load or store, when a byte range
  it uses covers part of the CSR window: the result is the platform's (R81, U6). Safe. -/
  | csrWindowInBuffer
  /-- Raised by a host load or store of a device: its behaviour is the platform's (R82, R86). Safe. -/
  | deviceAccess
deriving DecidableEq, Repr

/-- The whole machine. The fields from `irqEn` to `srPending` are the spec's, the memory is the platform's, and the
fields from `inbox` on are the model's own: inputs and bookkeeping of the surroundings (see INVENTORY.md). -/
structure State where
  /-- CTRL.IRQ_EN (R34). -/
  irqEn : Bool
  /-- STATUS.DONE (R35). -/
  done : Bool
  /-- STATUS.ERR (R35). -/
  err : Bool
  /-- STATUS.ERRCODE (R35, R230). -/
  errCode : ErrCode
  /-- STATUS.KEY_VALID (R35, R53). -/
  keyValid : Bool
  /-- STATUS.S2V_ACTIVE (R35, R170). -/
  s2vActive : Bool
  /-- STATUS.AUTH_OK (R35). -/
  authOk : Bool
  /-- STATUS.OVR (R35, R247). -/
  ovr : Bool
  /-- KEYLEN (R37). -/
  keylen : Word
  /-- ITEMS (R39). -/
  items : Word
  /-- SRC, the pair SRC_HI, SRC_LO (R40). -/
  src : DWord
  /-- SRCLEN (R41). -/
  srclen : DWord
  /-- DST (R42). -/
  dst : DWord
  /-- AAD (R43). -/
  aad : DWord
  /-- AADLEN (R44). -/
  aadlen : DWord
  /-- OUTLEN (R45). -/
  outlen : DWord
  /-- KEY_W0 .. KEY_W15, the key staging registers (R46). -/
  keyW : Vector Word 16
  /-- V, held as the block; V_W0 .. V_W3 are views of it (R47). -/
  v : Block
  /-- IVREF, held as the block; IVREF_W0 .. IVREF_W3 are views of it (R48). -/
  ivref : Block
  /-- `st.K1`, the MAC sub-key (R52). -/
  k1 : Key
  /-- `st.K2`, the encryption sub-key (R52). -/
  k2 : Key
  /-- `st.D`, the S2V chaining accumulator (R52, R171). -/
  d : Block
  /-- `st.STAGE` (R31, R52). BUSY is a view of it. -/
  stage : Stage
  /-- `st.SR_PENDING` (R52, R273). -/
  srPending : Bool
  /-- The DMA space (R82). -/
  mem : Memory
  /-- The turns of the outside world that are still to come, in arrival order (R93). -/
  inbox : List Input
  /-- The answer to the last access of the outside world. -/
  resp : HostResp
  /-- The memory oracle: the bus's answers to the accesses to come, `true` for an error response (R88, U4). An access
  beyond the list is answered without error (DESIGN CHOICE, log entry 6). -/
  busAnswers : List Bool
  /-- The ranges of the DMA space that are not idempotent memory (R82, R86, U5; log entry 11). -/
  devices : List Span
  /-- Addresses of bytes whose value in the host's caches may still go over the one in memory: bytes the host stored and
  has not written back since, and bytes others wrote in the same line (R98; log entry 10). -/
  hostDirty : List Nat
  /-- Copies the host's caches may hold of bytes the engine or another agent has written since: the address, and the byte
  from before that write (R98, U8; log entries 10 and 24). -/
  hostStale : List Host.Cell
  /-- An agent other than the engine stored into a buffer of the running command, or maintained a byte of one too late
  (R94, R98; log entries 7 and 10). -/
  raced : Bool
  /-- The number of the next draw of free values. -/
  draws : Nat
deriving DecidableEq, Repr

/-- R57, R270: every field of the engine at its reset value; nothing listed in memory and no input pending
(DESIGN CHOICE for the model's own fields, log entry 5). -/
def State.reset : State where
  irqEn := false
  done := false
  err := false
  errCode := .none
  keyValid := false
  s2vActive := false
  authOk := false
  ovr := false
  keylen := 0
  items := 0
  src := 0
  srclen := 0
  dst := 0
  aad := 0
  aadlen := 0
  outlen := 0
  keyW := Vector.replicate 16 0
  v := 0
  ivref := 0
  k1 := Vector.replicate 32 0
  k2 := Vector.replicate 32 0
  d := 0
  stage := .idle
  srPending := false
  mem := []
  inbox := []
  resp := .none
  busAnswers := []
  devices := []
  hostDirty := []
  hostStale := []
  raced := false
  draws := 0

end Sys2Proof.Machine
end

