-- ==== Sys2Proof/Machine/Ops.lean ====
section
/-! DEFINITION. The shared operations: DMA memory and byte ranges, acceptance and completion of a command, raising an
error (the engine's only exception), resets, the bus oracle, and the outcomes the spec leaves open. -/

namespace Sys2Proof.Machine

/-! ### Memory (R13, R82, R83) -/

/-- What an address that memory does not list reads as (DESIGN CHOICE, log entry 1). -/
def unlisted : Byte := 0

/-- The number of addresses of the DMA space (R82). -/
def dmaTop : Nat := 2 ^ 64

/-- The byte at one address. -/
def Memory.read : Memory → Nat → Byte
  | [], _ => unlisted
  | (b, x) :: m, a => if a = b then x else Memory.read m a

/-- Write one byte, keeping the canonical form. -/
def Memory.write : Memory → Nat → Byte → Memory
  | [], a, v => if v = unlisted then [] else [(a, v)]
  | (b, x) :: m, a, v =>
    if a < b then (if v = unlisted then (b, x) :: m else (a, v) :: (b, x) :: m)
    else if a = b then (if v = unlisted then m else (a, v) :: m)
    else (b, x) :: Memory.write m a v

/-- R13 `MemRead(a, n)`: the `n` bytes from address `a` on, in address order. -/
def Memory.readBytes (m : Memory) (a n : Nat) : Bytes :=
  (List.range n).map fun i => Memory.read m (a + i)

/-- R13 `MemWrite(a, n, v)`: byte `i` of the string goes to address `a + i`. -/
def Memory.writeBytes : Memory → Nat → Bytes → Memory
  | m, _, [] => m
  | m, a, x :: xs => Memory.writeBytes (Memory.write m a x) (a + 1) xs

/-- The write of a byte string of which only the bytes that `pick` names land; `i` is the index of the first. -/
def Memory.writeSome (pick : Nat → Bool) : Memory → Nat → Nat → Bytes → Memory
  | m, _, _, [] => m
  | m, a, i, x :: xs =>
    Memory.writeSome pick (if pick i then Memory.write m a x else m) (a + 1) (i + 1) xs

/-- Addresses rise strictly from `lo` on, lie in the DMA space, and no entry equals what an unlisted address reads. -/
def Memory.wfFrom : Nat → Memory → Bool
  | _, [] => true
  | lo, (a, x) :: m => decide (lo ≤ a) && decide (a < dmaTop) && decide (x ≠ unlisted) && Memory.wfFrom (a + 1) m

/-- The canonical form of memory. -/
def Memory.wf (m : Memory) : Bool := Memory.wfFrom 0 m

/-! ### Byte ranges (R87, R239) -/

/-- R87, R238 `inrange(a, n)`: `a + n ≤ 2^64`, exactly. -/
def Span.inRange (x : Span) : Bool := decide (x.base + x.len ≤ dmaTop)

/-- R239 `overlap(a, n, b, m)`. -/
def Span.overlaps (x y : Span) : Bool :=
  decide (0 < x.len) && decide (0 < y.len) && decide (x.base < y.base + y.len) && decide (y.base < x.base + x.len)

/-- An address of the range. -/
abbrev Span.has (x : Span) (a : Nat) : Prop := x.base ≤ a ∧ a < x.base + x.len

/-- The addresses of a range. -/
def Span.addrs (x : Span) : List Nat := (List.range x.len).map (x.base + ·)

/-- A line of the host's caches holds both this address and one of the range. -/
def Span.onLine (x : Span) (a : Nat) : Bool := x.addrs.any fun b => Config.cacheLine b == Config.cacheLine a

/-- The bytes of a range. -/
def Memory.readSpan (m : Memory) (x : Span) : Bytes := Memory.readBytes m x.base x.len

/-- The CSR window in the DMA space, if the platform maps it there (R32, R81). -/
def windowSpan : Span := ⟨Config.csrBase.toNat, 0x1000⟩

/-- U6: one of the ranges covers part of the CSR window. -/
def windowHit (xs : List Span) : Bool := xs.any fun x => x.overlaps windowSpan

/-- The bytes memory holds in a range, each with its address. -/
def Memory.copies (m : Memory) (x : Span) : List Host.Cell := x.addrs.map fun a => (a, Memory.read m a)

/-- Memory after the byte at each of these addresses of the DMA space has become the one `f` gives. -/
def Memory.replace (f : Nat → Byte) : Memory → List Nat → Memory
  | m, [] => m
  | m, a :: as => Memory.replace f (if a < dmaTop then Memory.write m a (f a) else m) as

/-! ### Commands: acceptance, completion, errors -/

/-- R31: `BUSY = 1` exactly when `st.STAGE ≠ IDLE`. -/
def State.busy (s : State) : Bool :=
  match s.stage with
  | .idle => false
  | .run _ => true

/-- R114, the accepting branch: a CMD write made while BUSY = 0. Whether `w` is legal is decided when it runs. -/
def State.accept (w : Word) (s : State) : State :=
  { s with
    done := false, err := false, errCode := .none, authOk := false, outlen := 0, stage := .run w, raced := false }

/-- R236 `complete`: the step that ends every accepted command. -/
def State.complete (s : State) : State :=
  { s with stage := .idle, done := true, raced := false }

/-- R14, R236, R244 `raise Error(code)`: the one way an exception is taken. No state is saved and nothing is vectored. -/
def State.raise (code : ErrCode) (s : State) : State :=
  State.complete { s with err := true, errCode := code }

/-- R245: the error status as a W1C of STATUS bit 2 leaves it; the nearest thing to a return from an error (R246). -/
def State.clearError (s : State) : State := { s with err := false, errCode := .none }

/-- R240, R177: a DMA access got an error response. Any S2V sequence ends. -/
def State.busError (s : State) : State :=
  State.raise .busError { s with s2vActive := false, d := 0 }

/-- R57, R270, R274: every register and hidden state item at its reset value. What belongs to the surroundings stays. -/
def State.resetEngine (s : State) : State :=
  { State.reset with
    mem := s.mem, inbox := s.inbox, resp := s.resp, busAnswers := s.busAnswers, devices := s.devices,
    hostDirty := s.hostDirty, hostStale := s.hostStale, draws := s.draws }

/-! ### The bus oracle (R88, U4) -/

/-- Whether one of a command's accesses, of these lengths and in this order, gets an error response. A range of length
0 is no access (R87), and no access follows an error (R240). DESIGN CHOICE: one access per range, log entry 6. -/
def busFails : List Nat → List Bool → Bool
  | [], _ => false
  | _ :: _, [] => false
  | n :: ns, e :: es => if n = 0 then busFails ns (e :: es) else if e then true else busFails ns es

/-- The answers left after those accesses. -/
def busRest : List Nat → List Bool → List Bool
  | [], es => es
  | _ :: _, [] => []
  | n :: ns, e :: es => if n = 0 then busRest ns (e :: es) else if e then es else busRest ns es

/-- The state after a command's accesses have been answered. -/
def State.consume (lens : List Nat) (s : State) : State := { s with busAnswers := busRest lens s.busAnswers }

/-! ### Engine writes to DMA memory -/

/-- A command's output is written in full. The host's caches may keep copies of the bytes from before (R98). -/
def State.dmaWrite (a : Nat) (bs : Bytes) (s : State) : State :=
  { s with mem := Memory.writeBytes s.mem a bs, hostStale := Memory.copies s.mem ⟨a, bs.length⟩ ++ s.hostStale }

/-- R240, R273, U3: each byte of the output range holds its old value or the value written there on success
(log entry 8). -/
def State.partialWrite (a : Nat) (bs : Bytes) (s : State) : State :=
  { s with
    mem := Memory.writeSome (Config.freeBool s.draws) s.mem a 0 bs
    hostStale := Memory.copies s.mem ⟨a, bs.length⟩ ++ s.hostStale
    draws := s.draws + 1 }

/-! ### Buffer races (R86, R94, R98; U1, U5) -/

/-- `n` free bytes of draw `k`. -/
def freeBytes (k n : Nat) : Bytes := (List.range n).map (Config.freeByte k)

/-- The error code of R230 with this number. -/
def ErrCode.ofNumber (n : Fin 10) : ErrCode :=
  match n.val with
  | 0 => .none
  | 1 => .invalidKeySize
  | 2 => .invalidCiphertext
  | 3 => .authFailed
  | 4 => .noKey
  | 5 => .illegalCmd
  | 6 => .s2vSequence
  | 7 => .range
  | 8 => .overlap
  | _ => .busError

/-- R98: a byte not written back at this address disturbs a command with these ranges: it is one the command reads, or
its line in the host's caches can be evicted over a byte the command writes. -/
def dirtyDisturbs (reads : List Span) (write : Span) (a : Nat) : Bool :=
  write.onLine a || reads.any fun x => decide (x.has a)

/-- The command's buffers are not stable idempotent memory: another agent stored into one (R94), one covers a device
(R86), or the host did not write back what it must on a platform that needs it (R98). -/
def State.hazard (reads : List Span) (write : Span) (s : State) : Bool :=
  s.raced
    || (write :: reads).any (fun x => s.devices.any x.overlaps)
    || (s.hostDirty.any (dirtyDisturbs reads write) && !Config.dmaCoherent)

/-- R98: bytes of a range written under a line that holds a byte not written back. That line may be evicted over them at
any later time, so they wait for maintenance like the byte itself (log entry 10). -/
def State.addExposed (write : Span) (s : State) : State :=
  { s with
    hostDirty := (write.addrs.filter fun a => s.hostDirty.any fun b => Config.cacheLine a == Config.cacheLine b)
      ++ s.hostDirty }

/-- R94: after a race every byte the command writes, V, OUTLEN, AUTH_OK and ERRCODE are free values. ERR follows
ERRCODE (R35), no byte outside the output range is touched, and the command still completes (DEDUCED, log entry 7). -/
def State.raceResult (write : Span) (s : State) : State :=
  let code := ErrCode.ofNumber (Config.freeErr s.draws)
  State.complete
    { s.addExposed write with
      mem := Memory.writeBytes s.mem write.base (freeBytes s.draws write.len)
      hostStale := Memory.copies s.mem write ++ s.hostStale
      v := Config.freeV s.draws
      outlen := Config.freeLen s.draws
      authOk := Config.freeBool s.draws 0
      err := decide (code ≠ .none)
      errCode := code
      draws := s.draws + 1 }

/-- The end of the S2V sequence (R170). -/
def State.endSequence (s : State) : State := { s with s2vActive := false, d := 0 }

/-! ### The frame of a command that uses DMA -/

/-- A command with DMA ranges: its pre-check decides first and makes no access (R231, R232); a range over the CSR window
has no described result (U6); a race gives free values; else the command runs as its rule says. -/
def dmaCommand (check : Option ErrCode) (reads : List Span) (write : Span)
    (race run : State → State) (s : State) : Host.Outcome State Fault Refusal :=
  match check with
  | some e => .next (s.raise e)
  | none =>
    if windowHit (write :: reads) then .refused .csrWindowInBuffer
    else if s.hazard reads write then .next (race s)
    else .next (run s)

end Sys2Proof.Machine
end

