-- ==== Sys2Proof/Machine/Operands.lean ====
section
/-! DEFINITION. The operands of each command (R111, R118): byte ranges taken from the operand registers, and the
pre-checks made on them before any access (R231, R232). -/

namespace Sys2Proof.Machine

/-- [SRC64, SRC64 + SRCLEN64) (R40, R41). -/
def State.srcSpan (s : State) : Span := ⟨s.src.toNat, s.srclen.toNat⟩

/-- [AAD64, AAD64 + AADLEN64) (R43, R44). -/
def State.aadSpan (s : State) : Span := ⟨s.aad.toNat, s.aadlen.toNat⟩

/-- The output range of CTR_XFORM (R201). -/
def State.ctrDst (s : State) : Span := ⟨s.dst.toNat, s.srclen.toNat⟩

/-- The output range of SIV_ENCRYPT, `lo = 16 + n` (R204, R205). -/
def State.encDst (s : State) : Span := ⟨s.dst.toNat, 16 + s.srclen.toNat⟩

/-- The output range of SIV_DECRYPT, `lo = n − 16` (R204, R209). -/
def State.decDst (s : State) : Span := ⟨s.dst.toNat, s.srclen.toNat - 16⟩

/-- The primary input of a command as bytes (R40). -/
def State.srcBytes (s : State) : Bytes := Memory.readSpan s.mem s.srcSpan

/-- The associated-data item as bytes (R43, R206). -/
def State.aadBytes (s : State) : Bytes := Memory.readSpan s.mem s.aadSpan

/-- The first test that holds names the error (R231). -/
def firstError : List (Bool × ErrCode) → Option ErrCode
  | [] => none
  | (failed, code) :: rest => if failed then some code else firstError rest

/-- R142, R242: the key-size gate. KEYSZ is 64. -/
def State.keyLoadCheck (s : State) : Option ErrCode :=
  firstError [(s.keylen != 64, .invalidKeySize)]

/-- R174. -/
def State.s2vInitCheck (s : State) : Option ErrCode :=
  firstError [(!s.keyValid, .noKey)]

/-- R173: the common pre-checks of S2V_AD and S2V_FINAL. -/
def State.s2vItemCheck (s : State) : Option ErrCode :=
  firstError [(!s.keyValid, .noKey), (!s.s2vActive, .s2vSequence), (!s.srcSpan.inRange, .range)]

/-- R201. -/
def State.ctrCheck (s : State) : Option ErrCode :=
  firstError
    [(!s.keyValid, .noKey),
     (!s.srcSpan.inRange || !s.ctrDst.inRange, .range),
     (s.dst != s.src && s.ctrDst.overlaps s.srcSpan, .overlap)]

/-- R204 for SIV_ENCRYPT. -/
def State.encCheck (s : State) : Option ErrCode :=
  firstError
    [(!s.keyValid, .noKey),
     (!s.srcSpan.inRange || !s.aadSpan.inRange || !s.encDst.inRange, .range),
     (s.encDst.overlaps s.srcSpan || s.encDst.overlaps s.aadSpan, .overlap)]

/-- R204 for SIV_DECRYPT. -/
def State.decCheck (s : State) : Option ErrCode :=
  firstError
    [(!s.keyValid, .noKey),
     (decide (s.srclen.toNat < 16), .invalidCiphertext),
     (!s.srcSpan.inRange || !s.aadSpan.inRange || !s.decDst.inRange, .range),
     (s.decDst.overlaps s.srcSpan || s.decDst.overlaps s.aadSpan, .overlap)]

/-- The pre-check of each command. -/
def State.preCheck (s : State) : Instr → Option ErrCode
  | .nop => none
  | .keyLoad => s.keyLoadCheck
  | .keyClear => none
  | .s2vInit => s.s2vInitCheck
  | .s2vAd => s.s2vItemCheck
  | .s2vFinal => s.s2vItemCheck
  | .ctrXform => s.ctrCheck
  | .ivVerify => none
  | .sivEncrypt => s.encCheck
  | .sivDecrypt => s.decCheck

/-- The DMA ranges a command reads (R82). -/
def State.readSpans (s : State) : Instr → List Span
  | .nop => []
  | .keyLoad => []
  | .keyClear => []
  | .s2vInit => []
  | .s2vAd => [s.srcSpan]
  | .s2vFinal => [s.srcSpan]
  | .ctrXform => [s.srcSpan]
  | .ivVerify => []
  | .sivEncrypt => [s.aadSpan, s.srcSpan]
  | .sivDecrypt => [s.srcSpan, s.aadSpan]

/-- The DMA range a command writes (R82); empty where it writes none. -/
def State.writeSpan (s : State) : Instr → Span
  | .nop => ⟨0, 0⟩
  | .keyLoad => ⟨0, 0⟩
  | .keyClear => ⟨0, 0⟩
  | .s2vInit => ⟨0, 0⟩
  | .s2vAd => ⟨0, 0⟩
  | .s2vFinal => ⟨0, 0⟩
  | .ctrXform => s.ctrDst
  | .ivVerify => ⟨0, 0⟩
  | .sivEncrypt => s.encDst
  | .sivDecrypt => s.decDst

end Sys2Proof.Machine
end

