-- ==== Sys2Proof/Machine/Siv.lean ====
section
/-! DEFINITION. The SIV controller's commands: CTR_XFORM, IV_VERIFY, SIV_ENCRYPT, SIV_DECRYPT (R190 to R216). -/

namespace Sys2Proof.Machine

/-! ### CTR_XFORM -/

/-- What CTR_XFORM writes on success: the keystream of V, masked, over the input (R201). -/
def State.ctrOutput (s : State) : Bytes := ctr Config.e s.k2 s.v s.srcBytes

/-- The effect of CTR_XFORM once its pre-checks passed: one read, one write (R201, R240). -/
def runCtrXform (s : State) : State :=
  let lens := [s.srclen.toNat, s.srclen.toNat]
  let s1 := s.consume lens
  if busFails lens s.busAnswers then (s1.partialWrite s.dst.toNat s.ctrOutput).busError
  else State.complete { s1.dmaWrite s.dst.toNat s.ctrOutput with outlen := s.srclen }

/-- CTR_XFORM after a race (R94): only a bus error ends a sequence (R170). -/
def raceCtrXform (s : State) : State :=
  let r := s.raceResult s.ctrDst
  if r.errCode = .busError then r.endSequence else r

/-- R201. -/
def execCtrXform (s : State) : Host.Outcome State Fault Refusal :=
  dmaCommand s.ctrCheck (s.readSpans .ctrXform) (s.writeSpan .ctrXform) raceCtrXform runCtrXform s

/-! ### IV_VERIFY -/

/-- R203: it needs no key and makes no access. -/
def execIvVerify (s : State) : Host.Outcome State Fault Refusal :=
  if ctEq s.v s.ivref then .next (State.complete { s with authOk := true })
  else .next (s.raise .authFailed)

/-! ### SIV_ENCRYPT -/

/-- The synthetic IV of SIV_ENCRYPT: S2V over exactly the two items [a, m] (R205, R206). -/
def State.encIv (s : State) : Block := s2v Config.mac s.k1 [s.aadBytes] s.srcBytes

/-- The ciphertext body (R205). -/
def State.encBody (s : State) : Bytes := ctr Config.e s.k2 s.encIv s.srcBytes

/-- The output layout of R207: the unmasked IV, then the body. -/
def State.encOutput (s : State) : Bytes := blockBytes s.encIv ++ s.encBody

/-- The effect of SIV_ENCRYPT once its pre-checks passed (R205, R240). The accesses are the read of the item, the two
reads of the message (R85) and the write. -/
def runSivEncrypt (s : State) : State :=
  let n := s.srclen.toNat
  let lens := [s.aadlen.toNat, n, n, 16 + n]
  let s1 := (s.consume lens).endSequence
  if busFails lens s.busAnswers then (s1.partialWrite s.dst.toNat s.encOutput).busError
  else State.complete { s1.dmaWrite s.dst.toNat s.encOutput with v := s.encIv, outlen := s.srclen + 16 }

/-- SIV_ENCRYPT after a race (R94); the sequence ended past the pre-checks (R170, R216). -/
def raceSivEncrypt (s : State) : State := (s.raceResult s.encDst).endSequence

/-- R205. -/
def execSivEncrypt (s : State) : Host.Outcome State Fault Refusal :=
  dmaCommand s.encCheck (s.readSpans .sivEncrypt) (s.writeSpan .sivEncrypt) raceSivEncrypt runSivEncrypt s

/-! ### SIV_DECRYPT -/

/-- IV', the first 16 bytes of the input (R209). -/
def State.decIvr (s : State) : Block := bytesBlock (s.srcBytes.take 16)

/-- P, the recovered plaintext (R209). -/
def State.decPlain (s : State) : Bytes := ctr Config.e s.k2 s.decIvr (s.srcBytes.drop 16)

/-- IV_check (R209). -/
def State.decIvc (s : State) : Block := s2v Config.mac s.k1 [s.aadBytes] s.decPlain

/-- The comparison of R209 matched. -/
def State.decMatch (s : State) : Bool := ctEq s.decIvc s.decIvr

/-- The accesses of pass 1: the input and the item (R209). -/
def State.decPass1 (s : State) : List Nat := [s.srclen.toNat, s.aadlen.toNat]

/-- The accesses of pass 2: the second read of the body and the write (R85, R209). -/
def State.decPass2 (s : State) : List Nat := [s.srclen.toNat - 16, s.srclen.toNat - 16]

/-- The effect of SIV_DECRYPT once its pre-checks passed: nothing is written before a match (R209, R210, R240). -/
def runSivDecrypt (s : State) : State :=
  let s1 := (s.consume s.decPass1).endSequence
  let s2 := s1.consume s.decPass2
  if busFails s.decPass1 s.busAnswers then s1.busError
  else if !s.decMatch then State.raise .authFailed { s1 with v := 0 }
  else if busFails s.decPass2 s1.busAnswers then (s2.partialWrite s.dst.toNat s.decPlain).busError
  else State.complete
    { s2.dmaWrite s.dst.toNat s.decPlain with v := s.decIvr, authOk := true, outlen := s.srclen - 16 }

/-- SIV_DECRYPT after a race: its authenticity guarantee does not hold (R94, U1). -/
def raceSivDecrypt (s : State) : State := (s.raceResult s.decDst).endSequence

/-- R209. -/
def execSivDecrypt (s : State) : Host.Outcome State Fault Refusal :=
  dmaCommand s.decCheck (s.readSpans .sivDecrypt) (s.writeSpan .sivDecrypt) raceSivDecrypt runSivDecrypt s

end Sys2Proof.Machine
end

