-- ==== Sys2Proof/Machine/Abort.lean ====
section
/-! DEFINITION. What a running command may have written so far, as the host can see it and as an abort leaves it
(R85, R273, R285; U3, U18), and the abort itself. -/

namespace Sys2Proof.Machine

/-- The command that is running, if the accepted word is legal (R31, R115). -/
def State.running (s : State) : Option Instr :=
  match s.stage with
  | .idle => none
  | .run w =>
    match decode w with
    | .ok i => some i
    | .error _ => none

/-- The bytes a command writes from the base of its output range on success. SIV_DECRYPT writes only after pass 1 met no
bus error and the comparison matched (R209, R240). -/
def State.output (s : State) : Instr → Bytes
  | .nop => []
  | .keyLoad => []
  | .keyClear => []
  | .s2vInit => []
  | .s2vAd => []
  | .s2vFinal => []
  | .ctrXform => s.ctrOutput
  | .ivVerify => []
  | .sivEncrypt => s.encOutput
  | .sivDecrypt => if !busFails s.decPass1 s.busAnswers && s.decMatch then s.decPlain else []

/-- A command past its pre-checks whose buffers raced (R94). -/
def State.isRacing (s : State) (i : Instr) : Bool :=
  (s.preCheck i).isNone && s.hazard (s.readSpans i) (s.writeSpan i)

/-- What the running command may write: nothing if it fails its pre-check, free bytes after a race (R94), else its
output. -/
def State.mayWrite (s : State) (i : Instr) : Bytes :=
  if (s.preCheck i).isSome then []
  else if s.isRacing i then freeBytes s.draws (s.writeSpan i).len
  else s.output i

/-- The running command is past its pre-checks and one of its ranges covers part of the CSR window (U6). -/
def State.runningOverWindow (s : State) : Bool :=
  match s.running with
  | none => false
  | some i => (s.preCheck i).isNone && windowHit (s.writeSpan i :: s.readSpans i)

/-- Memory as the running command's accesses so far may have left it: each byte it may write is old or new (R85). -/
def State.partialMem (s : State) : Memory :=
  match s.running with
  | none => s.mem
  | some i => Memory.writeSome (Config.freeBool s.draws) s.mem (s.writeSpan i).base 0 (s.mayWrite i)

/-- The running command's accesses so far are made final (R273). -/
def State.settle (s : State) : State :=
  match s.running with
  | none => s
  | some i =>
    let t := s.partialWrite (s.writeSpan i).base (s.mayWrite i)
    if s.isRacing i then t.addExposed (s.writeSpan i) else t

/-- R270, R273: a reset that aborts the running command, if there is one. `complete` does not run
(log entry 17). -/
def State.abort (s : State) : Host.Outcome State Fault Refusal :=
  if s.runningOverWindow then .refused .csrWindowInBuffer else .next s.settle.resetEngine

end Sys2Proof.Machine
end

