-- ==== Sys2Proof/Machine/Flags.lean ====
section
/-! DEFINITION. The flags (R56): the words STATUS and CTRL as the host sees them, their write effects, the interrupt
output, and the saturating item counter. -/

namespace Sys2Proof.Machine

/-- The numeric error codes (R230). -/
def ErrCode.code : ErrCode → BitVec 8
  | .none => 0x00
  | .invalidKeySize => 0x01
  | .invalidCiphertext => 0x02
  | .authFailed => 0x03
  | .noKey => 0x04
  | .illegalCmd => 0x05
  | .s2vSequence => 0x06
  | .range => 0x07
  | .overlap => 0x08
  | .busError => 0x09

/-- The STATUS word (R35): bits 31:16 and 7 are reserved and read 0 (R51). -/
def State.statusWord (s : State) : Word :=
  (0 : BitVec 16) ++ s.errCode.code ++ BitVec.ofBool false ++ BitVec.ofBool s.ovr ++ BitVec.ofBool s.authOk
    ++ BitVec.ofBool s.s2vActive ++ BitVec.ofBool s.keyValid ++ BitVec.ofBool s.err ++ BitVec.ofBool s.done
    ++ BitVec.ofBool s.busy

/-- The CTRL word (R34): IRQ_EN in bit 0; SOFT_RESET and the reserved bits read 0. -/
def State.ctrlWord (s : State) : Word := (0 : BitVec 31) ++ BitVec.ofBool s.irqEn

/-- R249: the level interrupt output. -/
def State.irq (s : State) : Bool := s.irqEn && s.done

/-- R35: W1C of DONE. -/
def State.clearDone (s : State) : State := { s with done := false }

/-- R35, R247: W1C of OVR. -/
def State.clearOvr (s : State) : State := { s with ovr := false }

/-- R35: a write to STATUS, whatever the value of BUSY. Every other bit of the data is ignored. -/
def State.writeStatus (w : Word) (s : State) : State :=
  let s1 := if w.getLsbD 1 then s.clearDone else s
  let s2 := if w.getLsbD 2 then s1.clearError else s1
  if w.getLsbD 6 then s2.clearOvr else s2

/-- R34, R272, R273: a write to CTRL. With bit 1 set it requests a soft reset, which an idle engine takes at once and
a busy one holds pending; bit 0 of that write is then irrelevant (log entry 12). -/
def State.writeCtrl (w : Word) (s : State) : State :=
  if w.getLsbD 1 then
    if s.busy then { s with srPending := true } else s.resetEngine
  else { s with irqEn := w.getLsbD 0 }

/-- R39, R175: one more item, saturating at 2^32 − 1. -/
def bumpItems (n : Word) : Word := if n = BitVec.allOnes 32 then n else n + 1

end Sys2Proof.Machine
end

