-- ==== Sys2Proof/Machine/Csr.lean ====
section
/-! DEFINITION. The CSR window (R32): which register stands at an offset, what a read returns and what a write does. -/

namespace Sys2Proof.Machine

/-- The registers of R32. -/
inductive Csr
  | id | ctrl | status | cmd | keylen | keysz | items
  | srcLo | srcHi | srclenLo | srclenHi | dstLo | dstHi | aadLo | aadHi | aadlenLo | aadlenHi
  | outlenLo | outlenHi
  | keyW (i : Fin 16)
  | vW (i : Fin 4)
  | ivrefW (i : Fin 4)
  /-- A reserved offset: RAZ/WI (R51). -/
  | reserved
deriving DecidableEq, Repr

/-- R7, R33 `ID_VALUE`. -/
def idValue : Word := 0x53325601

/-- R38 KEYSZ. -/
def keyszValue : Word := 64

/-- The size of the CSR window in bytes (R32). -/
def csrWindow : Nat := 0x1000

/-- The register at a 4-byte-aligned offset inside the window (R32). -/
def Csr.ofOffset (off : Nat) : Csr :=
  if off = 0x000 then .id
  else if off = 0x004 then .ctrl
  else if off = 0x008 then .status
  else if off = 0x00C then .cmd
  else if off = 0x010 then .keylen
  else if off = 0x014 then .keysz
  else if off = 0x018 then .items
  else if off = 0x01C then .reserved
  else if off = 0x020 then .srcLo
  else if off = 0x024 then .srcHi
  else if off = 0x028 then .srclenLo
  else if off = 0x02C then .srclenHi
  else if off = 0x030 then .dstLo
  else if off = 0x034 then .dstHi
  else if off = 0x038 then .aadLo
  else if off = 0x03C then .aadHi
  else if off = 0x040 then .aadlenLo
  else if off = 0x044 then .aadlenHi
  else if off = 0x048 then .outlenLo
  else if off = 0x04C then .outlenHi
  else if off < 0x090 then .keyW (Fin.ofNat 16 ((off - 0x050) / 4))
  else if off < 0x0A0 then .vW (Fin.ofNat 4 ((off - 0x090) / 4))
  else if off < 0x0B0 then .ivrefW (Fin.ofNat 4 ((off - 0x0A0) / 4))
  else .reserved

/-- The low half of a LO/HI pair (R12). -/
def loWord (x : DWord) : Word := x.extractLsb' 0 32

/-- The high half of a LO/HI pair (R12). -/
def hiWord (x : DWord) : Word := x.extractLsb' 32 32

/-- A pair after its LO half is written (R49). -/
def setLo (x : DWord) (w : Word) : DWord := hiWord x ++ w

/-- A pair after its HI half is written (R49). -/
def setHi (x : DWord) (w : Word) : DWord := w ++ loWord x

/-- What a read of a register returns (R32 to R48, R51, R282). While BUSY = 1, V and OUTLEN read 0; KEY_W and CMD
read 0 always. -/
def readCsr (c : Csr) (s : State) : Word :=
  match c with
  | .id => idValue
  | .ctrl => s.ctrlWord
  | .status => s.statusWord
  | .cmd => 0
  | .keylen => s.keylen
  | .keysz => keyszValue
  | .items => s.items
  | .srcLo => loWord s.src
  | .srcHi => hiWord s.src
  | .srclenLo => loWord s.srclen
  | .srclenHi => hiWord s.srclen
  | .dstLo => loWord s.dst
  | .dstHi => hiWord s.dst
  | .aadLo => loWord s.aad
  | .aadHi => hiWord s.aad
  | .aadlenLo => loWord s.aadlen
  | .aadlenHi => hiWord s.aadlen
  | .outlenLo => if s.busy then 0 else loWord s.outlen
  | .outlenHi => if s.busy then 0 else hiWord s.outlen
  | .keyW _ => 0
  | .vW i => if s.busy then 0 else blockWord s.v i.val
  | .ivrefW i => blockWord s.ivref i.val
  | .reserved => 0

/-- R280, R281: a write that is dropped because BUSY = 1. -/
def State.dropWrite (s : State) : State := { s with ovr := true }

/-- The write of an operand register: dropped while BUSY = 1, else `f` (R281). -/
def State.writeOperand (f : State → State) (s : State) : State :=
  if s.busy then s.dropWrite else f s

/-- What a write to a register does (R32 to R51, R114, R281). -/
def writeCsr (c : Csr) (w : Word) (s : State) : State :=
  match c with
  | .id => s
  | .ctrl => s.writeCtrl w
  | .status => s.writeStatus w
  | .cmd => if s.busy then s.dropWrite else s.accept w
  | .keylen => s.writeOperand fun s => { s with keylen := w }
  | .keysz => s
  | .items => s
  | .srcLo => s.writeOperand fun s => { s with src := setLo s.src w }
  | .srcHi => s.writeOperand fun s => { s with src := setHi s.src w }
  | .srclenLo => s.writeOperand fun s => { s with srclen := setLo s.srclen w }
  | .srclenHi => s.writeOperand fun s => { s with srclen := setHi s.srclen w }
  | .dstLo => s.writeOperand fun s => { s with dst := setLo s.dst w }
  | .dstHi => s.writeOperand fun s => { s with dst := setHi s.dst w }
  | .aadLo => s.writeOperand fun s => { s with aad := setLo s.aad w }
  | .aadHi => s.writeOperand fun s => { s with aad := setHi s.aad w }
  | .aadlenLo => s.writeOperand fun s => { s with aadlen := setLo s.aadlen w }
  | .aadlenHi => s.writeOperand fun s => { s with aadlen := setHi s.aadlen w }
  | .outlenLo => s
  | .outlenHi => s
  | .keyW i => s.writeOperand fun s => { s with keyW := s.keyW.set i.val w }
  | .vW i => s.writeOperand fun s => { s with v := setBlockWord s.v i.val w }
  | .ivrefW i => s.writeOperand fun s => { s with ivref := setBlockWord s.ivref i.val w }
  | .reserved => s

/-- R50, R252: a 32-bit access at a 4-byte-aligned offset inside the window. -/
def csrAccessOk (off size : Nat) : Bool :=
  decide (size = 4) && decide (off % 4 = 0) && decide (off < csrWindow)

/-- A host write on the slave port (R252). An access the port refuses changes no register and no STATUS bit. -/
def State.hostCsrWrite (off size : Nat) (w : Word) (s : State) : State :=
  if csrAccessOk off size then { writeCsr (Csr.ofOffset off) w s with resp := .done }
  else { s with resp := .slvErr }

/-- A host read on the slave port (R252). A read changes no register. -/
def State.hostCsrRead (off size : Nat) (s : State) : State :=
  if csrAccessOk off size then { s with resp := .data (readCsr (Csr.ofOffset off) s) }
  else { s with resp := .slvErr }

end Sys2Proof.Machine
end

