-- ==== Sys2Proof/Machine/Key.lean ====
section
/-! DEFINITION. The control and key commands: NOP, KEY_LOAD, KEY_CLEAR (R140 to R147). -/

namespace Sys2Proof.Machine

/-- R140. -/
def execNop (s : State) : Host.Outcome State Fault Refusal := .next s.complete

/-- 0^32. -/
def zeroKey : Key := Vector.replicate 32 0

/-- KEY_W0 .. KEY_W15 all 0. -/
def zeroStaging : Vector Word 16 := Vector.replicate 16 0

/-- R141, R144, R146: staging, chain and counter are cleared whatever the outcome; a wrong length also destroys the key;
else the staged bytes are split into K1 and K2 (R143). -/
def execKeyLoad (s : State) : Host.Outcome State Fault Refusal :=
  let kb := keyBuf s.keyW
  let s1 := { s with keyW := zeroStaging, d := 0, s2vActive := false, items := 0 }
  match s.keyLoadCheck with
  | some e => .next (State.raise e { s1 with k1 := zeroKey, k2 := zeroKey, keyValid := false })
  | none => .next (State.complete { s1 with k1 := keyAt kb 0, k2 := keyAt kb 32, keyValid := true })

/-- R145. -/
def execKeyClear (s : State) : Host.Outcome State Fault Refusal :=
  .next (State.complete
    { s with
      k1 := zeroKey, k2 := zeroKey, keyW := zeroStaging, d := 0, v := 0, ivref := 0, items := 0,
      keyValid := false, s2vActive := false })

end Sys2Proof.Machine
end

