-- ==== Sys2Proof/Machine/S2v.lean ====
section
/-! DEFINITION. The S2V commands: S2V_INIT, S2V_AD, S2V_FINAL (R169 to R178). -/

namespace Sys2Proof.Machine

/-- R174: seed the chain. -/
def execS2vInit (s : State) : Host.Outcome State Fault Refusal :=
  match s.s2vInitCheck with
  | some e => .next (s.raise e)
  | none => .next (State.complete { s with d := s2vSeed Config.mac s.k1, items := 0, s2vActive := true })

/-- The effect of S2V_AD once its pre-checks passed (R175, R177). -/
def runS2vAd (s : State) : State :=
  let lens := [s.srclen.toNat]
  let s1 := s.consume lens
  if busFails lens s.busAnswers then s1.busError
  else State.complete { s1 with d := s2vAbsorb Config.mac s.k1 s.d s.srcBytes, items := bumpItems s.items }

/-- S2V_AD over a raced item (R94): besides the free values of `raceResult`, the accumulator, which the raced bytes
entered, is free too. What the drawn error code decides follows from it (R170, R177, R39). -/
def raceS2vAd (s : State) : State :=
  let r := s.raceResult ⟨0, 0⟩
  if r.errCode = .busError then r.endSequence
  else { r with d := Config.freeD s.draws, items := if r.errCode = .none then bumpItems s.items else s.items }

/-- R175: absorb one non-final item. -/
def execS2vAd (s : State) : Host.Outcome State Fault Refusal :=
  dmaCommand s.s2vItemCheck (s.readSpans .s2vAd) (s.writeSpan .s2vAd) raceS2vAd runS2vAd s

/-- The effect of S2V_FINAL once its pre-checks passed (R176, R177). -/
def runS2vFinal (s : State) : State :=
  let lens := [s.srclen.toNat]
  let s1 := s.consume lens
  if busFails lens s.busAnswers then s1.busError
  else State.complete
    { s1 with v := Config.mac s.k1 (s2vLast s.d s.srcBytes), d := 0, s2vActive := false }

/-- S2V_FINAL over a raced item (R94): the sequence ends in any case (R170). -/
def raceS2vFinal (s : State) : State := (s.raceResult ⟨0, 0⟩).endSequence

/-- R176: process the final item and write the synthetic IV. -/
def execS2vFinal (s : State) : Host.Outcome State Fault Refusal :=
  dmaCommand s.s2vItemCheck (s.readSpans .s2vFinal) (s.writeSpan .s2vFinal) raceS2vFinal runS2vFinal s

end Sys2Proof.Machine
end

