-- ==== Sys2Proof/Machine/Dispatch.lean ====
section
/-! DEFINITION. The dispatch of R115: one arm per command. -/

namespace Sys2Proof.Machine

def exec (i : Instr) (s : State) : Host.Outcome State Fault Refusal :=
  match i with
  | .nop => Sys2Proof.Machine.execNop s
  | .keyLoad => Sys2Proof.Machine.execKeyLoad s
  | .keyClear => Sys2Proof.Machine.execKeyClear s
  | .s2vInit => Sys2Proof.Machine.execS2vInit s
  | .s2vAd => Sys2Proof.Machine.execS2vAd s
  | .s2vFinal => Sys2Proof.Machine.execS2vFinal s
  | .ctrXform => Sys2Proof.Machine.execCtrXform s
  | .ivVerify => Sys2Proof.Machine.execIvVerify s
  | .sivEncrypt => Sys2Proof.Machine.execSivEncrypt s
  | .sivDecrypt => Sys2Proof.Machine.execSivDecrypt s

end Sys2Proof.Machine
end

