-- ==== Sys2Proof/Machine/HostPort.lean ====
section
/-! DEFINITION. The turns of the engine and of the outside world: running an accepted word, host stores and loads of DMA
memory, cache maintenance, and the hardware reset. -/

namespace Sys2Proof.Machine

/-- R115 `execute(w)`: an illegal word raises ILLEGAL_CMD and has no other effect (R116, R233). -/
def runCommand (w : Word) (s : State) : Host.Outcome State Fault Refusal :=
  match decode w with
  | .ok i => exec i s
  | .error _ => .next (s.raise .illegalCmd)

/-- The engine's turn: an idle engine holds its state (R258); a pending soft reset aborts the command instead of
completing it (R248, R273); else the command's whole effect is one step (R100; log entry 2). -/
def engineStep (s : State) : Host.Outcome State Fault Refusal :=
  match s.stage with
  | .idle => .next s
  | .run w => if s.srPending then s.abort else runCommand w s

/-- A range of the DMA space the outside world may load or store as plain memory, with the reason where not
(log entries 9, 11, 22). -/
def State.checkHostSpan (x : Span) (s : State) (k : State → Host.Outcome State Fault Refusal) :
    Host.Outcome State Fault Refusal :=
  if !x.inRange then .fault .outsideDmaSpace
  else if windowHit [x] then .refused .csrWindowInBuffer
  else if s.devices.any x.overlaps then .refused .deviceAccess
  else k s

/-- R94: a store by an agent other than the engine into a buffer of the running command is a race. -/
def State.storeRaces (x : Span) (s : State) : Bool :=
  match s.running with
  | none => false
  | some i => (s.writeSpan i :: s.readSpans i).any x.overlaps

/-- R119 `mem`: a host store to DMA memory. DESIGN CHOICE, log entry 10: its bytes are new in the host's caches, so no
older copy of them stays, and they wait to be written back. So do the copies of bytes written by others that stand in the
same lines, for the host did not invalidate them and the line may now be evicted over those bytes (R98). -/
def State.hostStore (a : DWord) (bs : Bytes) (s : State) : Host.Outcome State Fault Refusal :=
  let x : Span := ⟨a.toNat, bs.length⟩
  s.checkHostSpan x fun s =>
    .next
      { s with
        mem := Memory.writeBytes s.mem a.toNat bs
        hostDirty := x.addrs ++ (s.hostStale.map (·.1)).filter x.onLine ++ s.hostDirty
        hostStale := s.hostStale.filter fun c => !decide (x.has c.1)
        raced := s.raced || s.storeRaces x
        resp := .done }

/-- R94: a store by an agent that is neither the host nor the engine. DESIGN CHOICE, log entry 24: it reaches memory as an
engine write does, so the host's caches may keep the bytes from before, and over a line that holds a byte the host has
not written back its bytes are free. -/
def State.agentStore (a : DWord) (bs : Bytes) (s : State) : Host.Outcome State Fault Refusal :=
  let x : Span := ⟨a.toNat, bs.length⟩
  s.checkHostSpan x fun s =>
    let t := (s.dmaWrite a.toNat bs).addExposed x
    .next
      { t with
        mem :=
          if Config.dmaCoherent then t.mem
          else Memory.replace (Config.freeByte s.draws) t.mem (t.hostDirty.filter fun a => decide (x.has a))
        raced := s.raced || s.storeRaces x
        resp := .done
        draws := s.draws + 1 }

/-- The copies the host's caches may still hold of the byte at one address (R98). -/
def State.staleCopies (s : State) (a : Nat) : Bytes := (s.hostStale.filter fun c => c.1 == a).map (·.2)

/-- The byte the host's caches show for an address where memory shows `new`: that one or one of the copies. Which one is
free (log entry 10). -/
def State.cachedByte (s : State) (new : Byte) (a : Nat) : Byte :=
  (new :: s.staleCopies a).getD (Config.freeCopy s.draws a) new

/-- The byte a host load returns at one address: what memory holds, a byte the running command may have written being old
or new (R85, R285), or, on a platform that needs cache maintenance, a stale copy (R98, U8). Which one is free
(log entries 10 and 16). -/
def State.loadByte (s : State) (a : Nat) : Byte :=
  let new := Memory.read s.partialMem a
  if Config.dmaCoherent then new else s.cachedByte new a

/-- A host load of DMA memory. -/
def State.hostLoad (a : DWord) (n : Nat) (s : State) : Host.Outcome State Fault Refusal :=
  s.checkHostSpan ⟨a.toNat, n⟩ fun s =>
    .next
      { s with
        resp := .bytes ((List.range n).map fun i => s.loadByte (a.toNat + i))
        draws := s.draws + 1 }

/-- R98: maintenance of a range comes too late for a byte it reaches that is not written back and disturbs the running
command: the command may already have read what memory held, or the line may have been evicted over what it wrote. -/
def State.maintenanceRaces (x : Span) (s : State) : Bool :=
  match s.running with
  | none => false
  | some i =>
    s.hostDirty.any (fun a => x.onLine a && dirtyDisturbs (s.readSpans i) (s.writeSpan i) a) && !Config.dmaCoherent

/-- R98: the host writes a range back from its caches, by whole lines: exactly the lines that hold a byte of the range. On
a platform that needs it, a byte of such a line that others wrote too may then be the host's copy again: it was evicted
over what they wrote. -/
def State.cacheClean (x : Span) (s : State) : State :=
  { s with
    mem :=
      if Config.dmaCoherent then s.mem
      else Memory.replace (fun a => s.cachedByte (Memory.read s.mem a) a) s.mem (s.hostDirty.filter x.onLine)
    hostDirty := s.hostDirty.filter fun a => !x.onLine a
    raced := s.raced || s.maintenanceRaces x
    resp := .done
    draws := s.draws + 1 }

/-- R98: the host invalidates a range in its caches, by whole lines: exactly the copies in lines that hold a byte of the
range go. DESIGN CHOICE, log entry 23: on a platform that needs cache maintenance, a byte of such a line that was not
written back becomes a free byte, since the spec does not say whether such a store is lost, and no longer waits to be
written back. -/
def State.cacheInvalidate (x : Span) (s : State) : State :=
  { s with
    mem :=
      if Config.dmaCoherent then s.mem
      else Memory.replace (Config.freeByte s.draws) s.mem (s.hostDirty.filter x.onLine)
    hostDirty := s.hostDirty.filter fun a => !x.onLine a
    hostStale := s.hostStale.filter fun c => !x.onLine c.1
    raced := s.raced || s.maintenanceRaces x
    resp := .done
    draws := s.draws + 1 }

/-- One turn. -/
def turn (x : Input) (s : State) : Host.Outcome State Fault Refusal :=
  match x with
  | .csrWrite off size w => .next (s.hostCsrWrite off size w)
  | .csrRead off size => .next (s.hostCsrRead off size)
  | .memStore a bs => s.hostStore a bs
  | .agentStore a bs => s.agentStore a bs
  | .memLoad a n => s.hostLoad a n
  | .cacheClean x => .next (s.cacheClean x)
  | .cacheInvalidate x => .next (s.cacheInvalidate x)
  | .hwReset => s.abort
  | .engineTurn => engineStep s

/-- The step: the next turn of the queue, or, when the queue is empty, the engine's. -/
def oneStep (s : State) : Host.Outcome State Fault Refusal :=
  match s.inbox with
  | [] => engineStep s
  | x :: rest => turn x { s with inbox := rest }

/-- The state in which the very next step runs the word `w`: it has just been accepted (R114), no soft reset is
pending, and the next turn is the engine's
(DESIGN CHOICE, log entry 4). -/
def State.acceptNext (w : Word) (s : State) : State :=
  { State.accept w s with srPending := false, inbox := .engineTurn :: s.inbox }

end Sys2Proof.Machine
end

