-- ==== Sys2Proof/Machine/Step.lean ====
section
/-! DEFINITION. The step of the machine, and how a command word is placed where the step takes it. -/

namespace Sys2Proof.Machine

/-- One step: a turn of the outside world, or the run of the accepted command. -/
def step (s : State) : Host.Outcome State Fault Refusal := oneStep s

/-- `s` with the command word of `nbits` bits accepted and next to run. The engine fetches nothing (R31): a
command comes to it by a CMD write, and what that write leaves in `st.STAGE` is what the step runs. -/
def State.withFetchWord (s : State) (nbits w : Nat) : State := s.acceptNext (tableWord nbits w)

end Sys2Proof.Machine
end

