-- ==== Sys2Proof/Machine/Script.lean ====
section
/-! DEFINITION. The host script operations and pseudo-instructions of R119 to R121, as the turns they expand to. -/

namespace Sys2Proof.Machine

/-- The offset of a register (R32). Of the reserved offsets the first stands for all. -/
def Csr.offset : Csr → Nat
  | .id => 0x000
  | .ctrl => 0x004
  | .status => 0x008
  | .cmd => 0x00C
  | .keylen => 0x010
  | .keysz => 0x014
  | .items => 0x018
  | .srcLo => 0x020
  | .srcHi => 0x024
  | .srclenLo => 0x028
  | .srclenHi => 0x02C
  | .dstLo => 0x030
  | .dstHi => 0x034
  | .aadLo => 0x038
  | .aadHi => 0x03C
  | .aadlenLo => 0x040
  | .aadlenHi => 0x044
  | .outlenLo => 0x048
  | .outlenHi => 0x04C
  | .keyW i => 0x050 + 4 * i.val
  | .vW i => 0x090 + 4 * i.val
  | .ivrefW i => 0x0A0 + 4 * i.val
  | .reserved => 0x01C

/-- `wr REG, VALUE`: a 32-bit CSR write (R119). -/
def scriptWr (c : Csr) (w : Word) : List Input := [.csrWrite c.offset 4 w]

/-- `rd REG`: a 32-bit CSR read (R119). -/
def scriptRd (c : Csr) : List Input := [.csrRead c.offset 4]

/-- `mem ADDR, BYTES`: a host store (R119). -/
def scriptMem (a : DWord) (bs : Bytes) : List Input := [.memStore a bs]

/-- `cmd MNEMONIC` (R119, R121). -/
def scriptCmd (i : Instr) : List Input := scriptWr .cmd (encode i)

/-- `set64 NAME, v`: the LO half, then the HI half (R120). -/
def scriptSet64 (lo hi : Csr) (v : DWord) : List Input := scriptWr lo (loWord v) ++ scriptWr hi (hiWord v)

/-- The writes of four bytes a word to the registers `reg 0`, `reg 1` and so on (R120). -/
def scriptLanes (reg : Nat → Csr) (n : Nat) (bs : Bytes) : List Input :=
  (List.range n).flatMap fun i =>
    scriptWr (reg i)
      (laneWord (bs.getD (4 * i) 0) (bs.getD (4 * i + 1) 0) (bs.getD (4 * i + 2) 0) (bs.getD (4 * i + 3) 0))

/-- `key k0 .. k63` (R120). -/
def scriptKey (bs : Bytes) : List Input :=
  scriptLanes (fun i => .keyW (Fin.ofNat 16 i)) 16 bs ++ scriptWr .keylen 64

/-- `setv b0 .. b15` (R120). -/
def scriptSetv (bs : Bytes) : List Input := scriptLanes (fun i => .vW (Fin.ofNat 4 i)) 4 bs

/-- `setref b0 .. b15` (R120). -/
def scriptSetref (bs : Bytes) : List Input := scriptLanes (fun i => .ivrefW (Fin.ofNat 4 i)) 4 bs

/-- `wait`: in the atomic reading of R100 the engine's one turn, then the read of STATUS that ends the loop (R120; log entry 21). -/
def scriptWait : List Input := .engineTurn :: scriptRd .status

/-- `run MNEMONIC` (R120). -/
def scriptRun (i : Instr) : List Input := scriptCmd i ++ scriptWait

/-- `clr` (R120). -/
def scriptClr : List Input := scriptWr .status 0x00000046

end Sys2Proof.Machine
end

