-- ==== Sys2Proof/Safety.lean ====
section
/-! DEFINITION. What counts as a safe state, in the terms the claims use. -/

namespace Sys2Proof.Machine

/-- What holds of every state of the engine, by the spec's own words, and of the model's memory. -/
structure State.Inv (s : State) : Prop where
  /-- Memory keeps its canonical form. -/
  memWf : Memory.wf s.mem = true
  /-- R35: ERR = 0 implies ERRCODE = 0x00. -/
  noErrNoCode : s.err = false → s.errCode = .none
  /-- R53: without a valid key both sub-keys are 0^32. -/
  noKeyZero : s.keyValid = false → s.k1 = zeroKey ∧ s.k2 = zeroKey
  /-- R54: without a sequence the accumulator is 0^16. -/
  noSequenceZero : s.s2vActive = false → s.d = 0
  /-- R174, R146: a sequence is active only under a key. -/
  sequenceNeedsKey : s.s2vActive = true → s.keyValid = true
  /-- R273: a soft reset is pending only while a command runs. -/
  pendingBusy : s.srPending = true → s.busy = true
  /-- R114, R236: while a command runs, what its acceptance cleared stays clear. -/
  busyClear : s.busy = true →
    s.done = false ∧ s.err = false ∧ s.authOk = false ∧ s.outlen = 0
  /-- A race is recorded only against a running command. -/
  racedBusy : s.raced = true → s.busy = true

/-- A line of the host's caches holds both this address and one of the range (R98). -/
def Span.touchesLine (x : Span) (a : Nat) : Prop := ∃ b, x.has b ∧ Config.cacheLine b = Config.cacheLine a

/-- Nothing outside its rule decides what the command `i` does once past its pre-check: no range of it covers the CSR
window (U6), and its buffers are stable idempotent memory that the host has written back (R86, R94, R98). -/
structure State.Undisturbed (s : State) (i : Instr) : Prop where
  clearOfWindow : windowHit (s.writeSpan i :: s.readSpans i) = false
  stable : s.hazard (s.readSpans i) (s.writeSpan i) = false

/-- The engine takes the next turn, because nothing waits or because its turn is first; `rest` waits after it. -/
def State.engineNext (s : State) (rest : List Input) : Prop :=
  (s.inbox = [] ∧ rest = []) ∨ s.inbox = .engineTurn :: rest

/-- The commands that use DMA (R82). -/
def Instr.usesDma (i : Instr) : Prop :=
  i = .s2vAd ∨ i = .s2vFinal ∨ i = .ctrXform ∨ i = .sivEncrypt ∨ i = .sivDecrypt

/-- The place of a pre-check's code in the order of R231. -/
def ErrCode.priority : ErrCode → Nat
  | .illegalCmd => 1
  | .invalidKeySize => 2
  | .noKey => 3
  | .s2vSequence => 4
  | .invalidCiphertext => 5
  | .range => 6
  | .overlap => 7
  | .busError => 8
  | .authFailed => 9
  | .none => 10

/-- The cause of a pre-check error holds of a command, whatever other cause holds too (R230, R234, R235, R237, R238,
R239, R242). -/
def State.cause (s : State) (i : Instr) : ErrCode → Prop
  | .invalidKeySize => i = .keyLoad ∧ s.keylen ≠ 64
  | .noKey => (i = .s2vInit ∨ Instr.usesDma i) ∧ s.keyValid = false
  | .s2vSequence => (i = .s2vAd ∨ i = .s2vFinal) ∧ s.s2vActive = false
  | .invalidCiphertext => i = .sivDecrypt ∧ s.srclen.toNat < 16
  | .range => Instr.usesDma i ∧ ∃ x ∈ s.writeSpan i :: s.readSpans i, 2 ^ 64 < x.base + x.len
  | .overlap =>
    (i = .ctrXform ∧ s.dst ≠ s.src ∧ s.ctrDst.overlaps s.srcSpan = true) ∨
    ((i = .sivEncrypt ∨ i = .sivDecrypt) ∧ ∃ x ∈ s.readSpans i, (s.writeSpan i).overlaps x = true)
  | _ => False

/-- The host points SRC and SRCLEN at an item and issues a command, which is accepted and runs (R169). -/
def runItem (i : Instr) (x : DWord × DWord) (s : State) : Host.Outcome State Fault Refusal :=
  exec i (State.accept (encode i) { s with src := x.1, srclen := x.2 })

/-- One S2V_AD per item, in order (R169). -/
def runItems : List (DWord × DWord) → State → Host.Outcome State Fault Refusal
  | [], s => .next s
  | x :: xs, s =>
    match runItem .s2vAd x s with
    | .next t => runItems xs t
    | .fault f => .fault f
    | .refused r => .refused r

end Sys2Proof.Machine
end

