-- ==== Sys2Proof/Certificates/Slice0/Obligations.lean ====
section
/-! DEFINITION. The statements for the provers. `s.raise e` and `s.complete` in them are spelled out by
`ErrorsAndCompletionRecordStatus`. -/

open Sys2Proof Sys2Proof.Machine

/-! ### Decoding, acceptance, the step -/

/-- When the accepted word decodes to `i`, the engine's turn is `exec i`: with an empty queue the step is that turn, and
with the engine's turn at the head of the queue the step removes it and is that turn.
The queue of turns is the model's choice (log entry 3). -/
def Obligations.StepRunsDecodedCommand : Prop :=
  ∀ (s : State) (w : Word) (i : Instr), s.stage = .run w → decode w = .ok i → s.srPending = false →
    (s.inbox = [] → step s = exec i s) ∧
    (∀ rest, s.inbox = .engineTurn :: rest → step s = exec i { s with inbox := rest })

/-- The state that `withFetchWord` makes runs exactly its command in the very next step.
How a word is placed is the model's choice (log entry 4). -/
def Obligations.FetchWordRunsNext : Prop :=
  ∀ (s : State) (i : Instr),
    decodeTableWord 32 (encode i).toNat = some i ∧
    step (s.withFetchWord 32 (encode i).toNat) = exec i { State.accept (encode i) s with srPending := false }

/-- R114. A CMD write while BUSY = 1 is dropped and sets OVR. Any CMD write while BUSY = 0 is accepted, and the engine's
next turn, here the next step because nothing else waits, executes the word.
Two steps for one write are the model's reading (log entry 2). -/
def Obligations.CmdWriteIsAcceptedWhenIdle : Prop :=
  ∀ (s : State) (w : Word) (rest : List Input),
    s.inbox = .csrWrite 0x00C 4 w :: rest → s.srPending = false →
    (s.busy = true → step s = .next { s with inbox := rest, resp := .done, ovr := true }) ∧
    (s.busy = false →
      let t : State :=
        { s with
          inbox := rest, resp := .done, done := false, err := false, errCode := .none, authOk := false, outlen := 0,
          stage := .run w, raced := false }
      step s = .next t ∧ t.busy = true ∧
      (rest = [] → step t =
        (match decode w with
         | .ok i => exec i t
         | .error _ => .next (t.raise .illegalCmd))))

/-- R115. A word with RSVD ≠ 0 or an unassigned OPCODE raises ILLEGAL_CMD; every other word selects exactly one command
of the table, and runs it. -/
def Obligations.DecodingIsTotal : Prop :=
  ∀ (w : Word) (s : State),
    ((w.extractLsb' 8 24 ≠ 0 ∨
        w.extractLsb' 0 8 ∉ ([0x00, 0x01, 0x02, 0x10, 0x11, 0x12, 0x20, 0x21, 0x30, 0x31] : List (BitVec 8))) →
      runCommand w s = .next (s.raise .illegalCmd)) ∧
    ((w.extractLsb' 8 24 = 0 ∧
        w.extractLsb' 0 8 ∈ ([0x00, 0x01, 0x02, 0x10, 0x11, 0x12, 0x20, 0x21, 0x30, 0x31] : List (BitVec 8))) →
      ∃ i, (i.opcode = w.extractLsb' 0 8 ∧ runCommand w s = exec i s) ∧
        ∀ j : Instr, j.opcode = w.extractLsb' 0 8 → j = i)

/-- R233. The code is 0x05, and the error changes nothing but BUSY, DONE, ERR and ERRCODE, whether the engine's turn comes
because nothing waits or because it is first in the queue. -/
def Obligations.IllegalWordHasNoOtherEffect : Prop :=
  ErrCode.illegalCmd.code = 0x05 ∧
  ∀ (s : State) (w : Word) (rest : List Input), s.stage = .run w → s.srPending = false → s.engineNext rest →
    (w.extractLsb' 8 24 ≠ 0 ∨
      w.extractLsb' 0 8 ∉ ([0x00, 0x01, 0x02, 0x10, 0x11, 0x12, 0x20, 0x21, 0x30, 0x31] : List (BitVec 8))) →
    step s = .next
      { s with inbox := rest, err := true, errCode := .illegalCmd, stage := .idle, done := true, raced := false }

/-- Decoding and encoding agree, on words and on byte strings, for every command.
The order of the bytes is the model's choice (log entry 18). -/
def Obligations.DecodeAndEncodeAgree : Prop :=
  (∀ (w : Word) (i : Instr), decode w = .ok i ↔ w = encode i) ∧
  (∀ (bs : Bytes) (i : Instr) (rest : Bytes), decodeBytes bs = .ok (i, rest) ↔ bs = encodeBytes i ++ rest)

/-- Words written out from R112's table decode to their commands; two illegal words do not decode. -/
def Obligations.WrittenOutWordsDecode : Prop :=
  decode 0x00000000 = .ok .nop ∧ decode 0x00000001 = .ok .keyLoad ∧ decode 0x00000011 = .ok .s2vAd ∧
  decode 0x00000020 = .ok .ctrXform ∧ decode 0x00000031 = .ok .sivDecrypt ∧
  decode 0x00000003 = .error .unassignedOpcode ∧ decode 0x00000110 = .error .rsvdNonzero

/-- R14, R236: what raising an error records, and the completion step. -/
def Obligations.ErrorsAndCompletionRecordStatus : Prop :=
  ∀ (s : State) (e : ErrCode),
    s.raise e = { s with err := true, errCode := e, stage := .idle, done := true, raced := false } ∧
    s.complete = { s with stage := .idle, done := true, raced := false } ∧
    s.complete.busy = false

/-- The engine's turn, because nothing waits or because it is first in the queue. R258: an idle engine holds its state.
R297, R236 in the atomic reading of R100: when a command runs and no soft reset is pending, the turn completes it, with
DONE set and BUSY clear, unless a buffer covers the CSR window (U6).
The refusal is the model's reading (log entry 9). -/
def Obligations.EngineTurnHoldsOrCompletes : Prop :=
  ∀ (s : State) (rest : List Input), s.engineNext rest →
    (s.busy = false → step s = .next { s with inbox := rest }) ∧
    (s.busy = true → s.srPending = false →
      (∃ t, step s = .next t ∧ t.busy = false ∧ t.done = true ∧ t.inbox = rest) ∨
      (step s = .refused .csrWindowInBuffer ∧
        ∃ i, s.running = some i ∧ s.preCheck i = none ∧ windowHit (s.writeSpan i :: s.readSpans i) = true))

/-! ### Control and key commands -/

/-- R140, with the flags of acceptance, the unchanged state, and the interrupt with IRQ_EN = 1. -/
def Obligations.NopOnlyCompletes : Prop :=
  ∀ s : State,
    exec .nop s = .next { s with stage := .idle, done := true, raced := false } ∧
    exec .nop (s.accept (encode .nop)) =
      .next { s with
        done := true, err := false, errCode := .none, authOk := false, outlen := 0, stage := .idle, raced := false } ∧
    (s.irqEn = true → s.complete.irq = true)

/-- R141: both branches of KEY_LOAD, the code 0x01 of its error, and every byte of both sub-keys in terms of the
staging registers. -/
def Obligations.KeyLoadSplitsOrDestroysKey : Prop :=
  ∀ s : State,
    (s.keylen = 64 →
      ∃ t, exec .keyLoad s = .next t ∧
        t = { s with
          keyW := Vector.replicate 16 0, d := 0, s2vActive := false, items := 0, k1 := t.k1, k2 := t.k2,
          keyValid := true, stage := .idle, done := true, raced := false } ∧
        (∀ (i : Fin 8) (j : Fin 4),
          t.k1[4 * i.val + j.val]? = some ((s.keyW[i.val]).extractLsb' (8 * j.val) 8) ∧
          t.k2[4 * i.val + j.val]? = some ((s.keyW[8 + i.val]).extractLsb' (8 * j.val) 8))) ∧
    (s.keylen ≠ 64 →
      exec .keyLoad s = .next
        { s with
          keyW := Vector.replicate 16 0, d := 0, s2vActive := false, items := 0, k1 := Vector.replicate 32 0,
          k2 := Vector.replicate 32 0, keyValid := false, err := true, errCode := .invalidKeySize, stage := .idle,
          done := true, raced := false }) ∧
    ErrCode.invalidKeySize.code = 0x01

/-- R145: everything KEY_CLEAR zeroes, and nothing else but the completion step. -/
def Obligations.KeyClearDestroysKeyAndDerivedState : Prop :=
  ∀ s : State,
    exec .keyClear s = .next
      { s with
        k1 := Vector.replicate 32 0, k2 := Vector.replicate 32 0, keyW := Vector.replicate 16 0, d := 0, v := 0,
        ivref := 0, items := 0, keyValid := false, s2vActive := false, stage := .idle, done := true, raced := false }

/-! ### The S2V engine -/

/-- R160, R161: doubling by its definition on the big-endian integer, and its properties. -/
def Obligations.DoublingIsMultiplicationByX : Prop :=
  (∀ b : Block, (dbl b).toNat =
    if 2 ^ 127 ≤ b.toNat then (2 * b.toNat % 2 ^ 128) ^^^ 0x87 else 2 * b.toNat % 2 ^ 128) ∧
  (∀ a b : Block, dbl (a ^^^ b) = dbl a ^^^ dbl b) ∧
  Function.Bijective dbl

/-- R162, R163: the padding of a short string, and the XOR into the last 16 bytes of a long one. -/
def Obligations.FinalItemIsPaddedOrXored : Prop :=
  (∀ s : Bytes, s.length ≤ 15 →
    pad s = s ++ [0x80] ++ List.replicate (15 - s.length) 0 ∧ (pad s).length = 16) ∧
  (∀ (s : Bytes) (d : Block), 16 ≤ s.length →
    (xorend s d).length = s.length ∧
    (∀ i, i < s.length - 16 → (xorend s d)[i]? = s[i]?) ∧
    (∀ i, i < 16 → ∀ x, s[s.length - 16 + i]? = some x →
      (xorend s d)[s.length - 16 + i]? = some (x ^^^ BitVec.ofNat 8 (d.toNat / 256 ^ (15 - i)))))

/-- R174: both branches of S2V_INIT. -/
def Obligations.S2vInitSeedsTheChain : Prop :=
  ∀ s : State,
    (s.keyValid = true →
      exec .s2vInit s = .next
        { s with
          d := Config.mac s.k1 (List.replicate 16 0), items := 0, s2vActive := true, stage := .idle, done := true,
          raced := false }) ∧
    (s.keyValid = false → exec .s2vInit s = .next (s.raise .noKey)) ∧
    ErrCode.noKey.code = 0x04

/-- R173: the pre-checks of S2V_AD and S2V_FINAL, in order, and what a failure changes. -/
def Obligations.S2vItemPreChecksInOrder : Prop :=
  ∀ (s : State) (i : Instr), (i = .s2vAd ∨ i = .s2vFinal) →
    (s.keyValid = false → exec i s = .next (s.raise .noKey)) ∧
    (s.keyValid = true → s.s2vActive = false → exec i s = .next (s.raise .s2vSequence)) ∧
    (s.keyValid = true → s.s2vActive = true → 2 ^ 64 < s.src.toNat + s.srclen.toNat →
      exec i s = .next (s.raise .range))

/-- The effect of S2V_AD past its pre-checks: the accumulator, the saturating counter, and nothing else but the
completion step. Memory is unchanged.
The list of accesses is the model's choice (log entry 6). -/
def Obligations.S2vAdAbsorbsItem : Prop :=
  ∀ s : State, s.keyValid = true → s.s2vActive = true → s.src.toNat + s.srclen.toNat ≤ 2 ^ 64 →
    s.Undisturbed .s2vAd → busFails [s.srclen.toNat] s.busAnswers = false →
    exec .s2vAd s = .next
      { s with
        d := dbl s.d ^^^ Config.mac s.k1 (Memory.readBytes s.mem s.src.toNat s.srclen.toNat)
        items := BitVec.ofNat 32 (min (s.items.toNat + 1) (2 ^ 32 - 1))
        busAnswers := busRest [s.srclen.toNat] s.busAnswers
        stage := .idle, done := true, raced := false }

/-- The effect of S2V_FINAL past its pre-checks, with the branch on the item's length (R165). ITEMS and memory are
unchanged.
The list of accesses is the model's choice (log entry 6). -/
def Obligations.S2vFinalWritesSyntheticIv : Prop :=
  ∀ s : State, s.keyValid = true → s.s2vActive = true → s.src.toNat + s.srclen.toNat ≤ 2 ^ 64 →
    s.Undisturbed .s2vFinal → busFails [s.srclen.toNat] s.busAnswers = false →
    let m := Memory.readBytes s.mem s.src.toNat s.srclen.toNat
    exec .s2vFinal s = .next
      { s with
        v := Config.mac s.k1
          (if 16 ≤ s.srclen.toNat then xorend m s.d else blockBytes (dbl s.d ^^^ bytesBlock (pad m)))
        d := 0, s2vActive := false
        busAnswers := busRest [s.srclen.toNat] s.busAnswers
        stage := .idle, done := true, raced := false }

/-- R177: a bus error on the item ends the command and the sequence; ITEMS, V and memory are unchanged.
The list of bus answers is the model's choice (log entry 6). -/
def Obligations.S2vBusErrorEndsTheSequence : Prop :=
  ∀ (s : State) (i : Instr), (i = .s2vAd ∨ i = .s2vFinal) →
    s.keyValid = true → s.s2vActive = true → s.src.toNat + s.srclen.toNat ≤ 2 ^ 64 → s.Undisturbed i →
    busFails [s.srclen.toNat] s.busAnswers = true →
    exec i s = .next
      { s with
        s2vActive := false, d := 0, err := true, errCode := .busError
        busAnswers := busRest [s.srclen.toNat] s.busAnswers
        stage := .idle, done := true, raced := false }

/-- R169: for any list of associated-data items and a final item, S2V_INIT, one S2V_AD per item and S2V_FINAL leave
V = S2V(K1, [S_1, …, S_n]), in a state whose surroundings disturb none of them. -/
def Obligations.S2vCommandsComputeS2v : Prop :=
  ∀ (s : State) (items : List (DWord × DWord)) (last : DWord × DWord),
    s.keyValid = true → s.devices = [] → s.hostDirty = [] → (∀ b ∈ s.busAnswers, b = false) →
    (∀ x ∈ last :: items,
      x.1.toNat + x.2.toNat ≤ 2 ^ 64 ∧ Span.overlaps ⟨x.1.toNat, x.2.toNat⟩ windowSpan = false) →
    ∃ t u z, exec .s2vInit s = .next t ∧ runItems items t = .next u ∧ runItem .s2vFinal last u = .next z ∧
      z.v = s2v Config.mac s.k1
        (items.map fun x => Memory.readBytes s.mem x.1.toNat x.2.toNat)
        (Memory.readBytes s.mem last.1.toNat last.2.toNat) ∧
      z.s2vActive = false ∧ z.d = 0 ∧ z.mem = s.mem ∧ z.err = false ∧
      z.items = BitVec.ofNat 32 (min items.length (2 ^ 32 - 1))

/-- R170: which commands end an S2V sequence and which leave it. S2V_AD past its pre-checks and without a bus error keeps
it (R175). -/
def Obligations.SequenceEndsExactlyWhereListed : Prop :=
  ∀ (s t : State) (i : Instr), exec i s = .next t → s.errCode = .none →
    (i = .s2vInit → s.preCheck i = none → t.s2vActive = true) ∧
    (i = .s2vAd → s.preCheck i = none → t.errCode ≠ .busError → t.s2vActive = true) ∧
    ((i = .keyLoad ∨ i = .keyClear ∨ ((i = .s2vFinal ∨ i = .sivEncrypt ∨ i = .sivDecrypt) ∧ s.preCheck i = none) ∨
        t.errCode = .busError) →
      t.s2vActive = false ∧ t.d = 0) ∧
    ((i = .nop ∨ i = .ivVerify ∨ (i = .ctrXform ∧ t.errCode ≠ .busError) ∨
        (i ≠ .keyLoad ∧ ∃ e, s.preCheck i = some e)) →
      t.s2vActive = s.s2vActive ∧ t.d = s.d) ∧
    (s.resetEngine.s2vActive = false ∧ s.resetEngine.d = 0)

/-! ### The SIV controller -/

/-- R190: the mask is the AND with Q_MASK, and clears bit 7 of bytes 8 and 12 of the block and no other bit. -/
def Obligations.MaskClearsTwoBits : Prop :=
  ∀ iv : Block,
    mask iv = iv &&& 0xFFFFFFFFFFFFFFFF7FFFFFFF7FFFFFFF ∧
    blockBytes (mask iv) = ((blockBytes iv).modify 8 (· &&& 0x7F)).modify 12 (· &&& 0x7F)

/-- R195: with at most 2^60 counter values a command's counter never carries into bit 64, so it never wraps. -/
def Obligations.CounterNeverWrapsInOneCommand : Prop :=
  ∀ (iv : Block) (j : Nat), j ≤ 2 ^ 60 →
    (mask iv).toNat % 2 ^ 64 + j < 2 ^ 64 ∧ (counter (mask iv) j).toNat = (mask iv).toNat + j

/-- R194: the counter-mode transform is its own inverse and keeps the length, whatever the cipher. -/
def Obligations.CtrIsAnInvolution : Prop :=
  ∀ (e : Key → Block → Block) (k : Key) (iv : Block) (m : Bytes),
    ctr e k iv (ctr e k iv m) = m ∧ (ctr e k iv m).length = m.length

/-- R199: decryption restores what encryption made, whatever the two callouts are. -/
def Obligations.SivDecryptionInvertsEncryption : Prop :=
  ∀ (mac : Key → Bytes → Block) (e : Key → Block → Block) (k1 k2 : Key) (a m : Bytes),
    sivDec mac e k1 k2 a (sivEnc mac e k1 k2 a m) = some m

/-- The pre-checks of CTR_XFORM, in the order of R201. -/
def Obligations.CtrXformPreChecksInOrder : Prop :=
  ∀ s : State,
    let n := s.srclen.toNat
    (s.keyValid = false → exec .ctrXform s = .next (s.raise .noKey)) ∧
    (s.keyValid = true → (2 ^ 64 < s.src.toNat + n ∨ 2 ^ 64 < s.dst.toNat + n) →
      exec .ctrXform s = .next (s.raise .range)) ∧
    (s.keyValid = true → s.src.toNat + n ≤ 2 ^ 64 → s.dst.toNat + n ≤ 2 ^ 64 →
      s.dst ≠ s.src → 0 < n → s.dst.toNat < s.src.toNat + n → s.src.toNat < s.dst.toNat + n →
      exec .ctrXform s = .next (s.raise .overlap))

/-- The effect of CTR_XFORM past its pre-checks, in place or not: the output range holds the input XORed with the keystream
of V, OUTLEN the length, every other byte and register is as before but for the completion step.
The list of accesses is the model's choice (log entry 6). -/
def Obligations.CtrXformTransformsTheBuffer : Prop :=
  ∀ s : State, s.keyValid = true →
    s.src.toNat + s.srclen.toNat ≤ 2 ^ 64 → s.dst.toNat + s.srclen.toNat ≤ 2 ^ 64 →
    (s.dst = s.src ∨ s.srclen = 0 ∨ s.src.toNat + s.srclen.toNat ≤ s.dst.toNat ∨
      s.dst.toNat + s.srclen.toNat ≤ s.src.toNat) →
    Memory.wf s.mem = true → s.Undisturbed .ctrXform →
    busFails [s.srclen.toNat, s.srclen.toNat] s.busAnswers = false →
    ∃ t, exec .ctrXform s = .next t ∧
      Memory.readBytes t.mem s.dst.toNat s.srclen.toNat =
        ctr Config.e s.k2 s.v (Memory.readBytes s.mem s.src.toNat s.srclen.toNat) ∧
      (∀ x, ¬ s.ctrDst.has x → Memory.read t.mem x = Memory.read s.mem x) ∧
      t = { s with
        mem := t.mem, hostStale := t.hostStale, busAnswers := t.busAnswers, outlen := s.srclen, stage := .idle,
        done := true, raced := false }

/-- R203: IV_VERIFY on a match and on a mismatch. It needs no key. -/
def Obligations.IvVerifyComparesWholeBlocks : Prop :=
  ∀ s : State,
    (s.v = s.ivref →
      exec .ivVerify s = .next { s with authOk := true, stage := .idle, done := true, raced := false }) ∧
    (s.v ≠ s.ivref → exec .ivVerify s = .next (s.raise .authFailed)) ∧
    ErrCode.authFailed.code = 0x03

/-- R204: the pre-checks of the compound commands, in order, with `lo` the output length, and what a failure changes. That
SIV_ENCRYPT with DST64 = 0 and SRCLEN64 = 2^64 − 16 reports OVERLAP and not RANGE is the model's reading of R238 (log
entry 13). -/
def Obligations.CompoundPreChecksInOrder : Prop :=
  ∀ (s : State) (i : Instr) (lo : Nat),
    ((i = .sivEncrypt ∧ lo = 16 + s.srclen.toNat) ∨ (i = .sivDecrypt ∧ lo = s.srclen.toNat - 16)) →
    let n := s.srclen.toNat
    let la := s.aadlen.toNat
    let tooShort := i = .sivDecrypt ∧ n < 16
    let outOfRange := 2 ^ 64 < s.src.toNat + n ∨ 2 ^ 64 < s.aad.toNat + la ∨ 2 ^ 64 < s.dst.toNat + lo
    let overlapping := Span.overlaps ⟨s.dst.toNat, lo⟩ ⟨s.src.toNat, n⟩ = true ∨
      Span.overlaps ⟨s.dst.toNat, lo⟩ ⟨s.aad.toNat, la⟩ = true
    (s.keyValid = false → exec i s = .next (s.raise .noKey)) ∧
    (s.keyValid = true → tooShort → exec i s = .next (s.raise .invalidCiphertext)) ∧
    (s.keyValid = true → ¬ tooShort → outOfRange → exec i s = .next (s.raise .range)) ∧
    (s.keyValid = true → ¬ tooShort → ¬ outOfRange → overlapping → exec i s = .next (s.raise .overlap))

/-- The effect of SIV_ENCRYPT past its pre-checks: the output range holds SIV_ENC(K1, K2, a, m), V its first 16 bytes as a
block, OUTLEN its length; every other byte and register is as before but for the ended sequence and the
completion step.
The list of accesses is the model's choice (log entry 6). -/
def Obligations.SivEncryptWritesIvThenBody : Prop :=
  ∀ s : State, s.preCheck .sivEncrypt = none → Memory.wf s.mem = true → s.Undisturbed .sivEncrypt →
    busFails [s.aadlen.toNat, s.srclen.toNat, s.srclen.toNat, 16 + s.srclen.toNat] s.busAnswers = false →
    let a := Memory.readBytes s.mem s.aad.toNat s.aadlen.toNat
    let m := Memory.readBytes s.mem s.src.toNat s.srclen.toNat
    ∃ t, exec .sivEncrypt s = .next t ∧
      Memory.readBytes t.mem s.dst.toNat (16 + s.srclen.toNat) = sivEnc Config.mac Config.e s.k1 s.k2 a m ∧
      (∀ x, ¬ s.encDst.has x → Memory.read t.mem x = Memory.read s.mem x) ∧
      t.v = s2v Config.mac s.k1 [a] m ∧
      t.outlen.toNat = 16 + s.srclen.toNat ∧
      t = { s with
        mem := t.mem, hostStale := t.hostStale, busAnswers := t.busAnswers, v := t.v, outlen := t.outlen, d := 0,
        s2vActive := false, stage := .idle, done := true, raced := false }

/-- The effect of SIV_DECRYPT on an input that authenticates: the output range holds the plaintext SIV_DEC returns. -/
def Obligations.SivDecryptWritesAuthenticPlaintext : Prop :=
  ∀ (s : State) (p : Bytes), s.preCheck .sivDecrypt = none → Memory.wf s.mem = true → s.Undisturbed .sivDecrypt →
    (∀ b ∈ s.busAnswers, b = false) →
    let a := Memory.readBytes s.mem s.aad.toNat s.aadlen.toNat
    let c := Memory.readBytes s.mem s.src.toNat s.srclen.toNat
    sivDec Config.mac Config.e s.k1 s.k2 a c = some p →
    ∃ t, exec .sivDecrypt s = .next t ∧
      Memory.readBytes t.mem s.dst.toNat (s.srclen.toNat - 16) = p ∧
      (∀ x, ¬ s.decDst.has x → Memory.read t.mem x = Memory.read s.mem x) ∧
      blockBytes t.v = c.take 16 ∧
      t.outlen.toNat = s.srclen.toNat - 16 ∧
      t = { s with
        mem := t.mem, hostStale := t.hostStale, busAnswers := t.busAnswers, v := t.v, outlen := t.outlen, d := 0,
        s2vActive := false, authOk := true, stage := .idle, done := true, raced := false }

/-- R210, R212: an input that SIV_DEC refuses ends in AUTH_FAILED, with V = 0, memory untouched, and the same end state
whatever the reason. -/
def Obligations.SivDecryptMismatchExposesNothing : Prop :=
  ∀ s : State, s.preCheck .sivDecrypt = none → s.Undisturbed .sivDecrypt → (∀ b ∈ s.busAnswers, b = false) →
    sivDec Config.mac Config.e s.k1 s.k2 (Memory.readBytes s.mem s.aad.toNat s.aadlen.toNat)
      (Memory.readBytes s.mem s.src.toNat s.srclen.toNat) = none →
    ∃ t, exec .sivDecrypt s = .next t ∧
      t = { s with
        v := 0, d := 0, s2vActive := false, err := true, errCode := .authFailed, busAnswers := t.busAnswers,
        stage := .idle, done := true, raced := false }

/-- Whatever the bus answers, SIV_DECRYPT changes no byte of memory before its comparison has matched. -/
def Obligations.NoPlaintextBeforeMatch : Prop :=
  ∀ s t : State, exec .sivDecrypt s = .next t → s.Undisturbed .sivDecrypt →
    (s.decMatch = false ∨ busFails s.decPass1 s.busAnswers = true) →
    t.mem = s.mem ∧ (t.authOk = true → s.authOk = true) ∧ t.err = true

/-- R212, on the machine: encrypting a message and then decrypting the output range restores it, for every key, item,
message and callout, with AUTH_OK set and V the synthetic IV. -/
def Obligations.EncryptThenDecryptRestoresTheMessage : Prop :=
  ∀ (s t : State) (d2 : DWord),
    s.preCheck .sivEncrypt = none → Memory.wf s.mem = true → s.devices = [] → s.hostDirty = [] →
    (∀ b ∈ s.busAnswers, b = false) → s.raced = false → windowHit [s.encDst, s.aadSpan, s.srcSpan] = false →
    exec .sivEncrypt s = .next t →
    let r : State := State.accept (encode .sivDecrypt) { t with src := s.dst, srclen := s.srclen + 16, dst := d2 }
    r.preCheck .sivDecrypt = none → windowHit [r.decDst] = false →
    ∃ u, exec .sivDecrypt r = .next u ∧
      Memory.readBytes u.mem d2.toNat s.srclen.toNat = Memory.readBytes s.mem s.src.toNat s.srclen.toNat ∧
      u.authOk = true ∧ u.err = false ∧ u.v = t.v ∧ u.outlen = s.srclen

/-- R55: what SIV_ENCRYPT and SIV_DECRYPT leave in memory, V, OUTLEN, AUTH_OK and the error fields does not depend on D, V,
IVREF, ITEMS or S2V_ACTIVE. -/
def Obligations.CompoundCommandsIgnoreChainState : Prop :=
  ∀ (s : State) (i : Instr) (d' v' ivref' : Block) (items' : Word) (active' : Bool),
    (i = .sivEncrypt ∨ i = .sivDecrypt) → s.preCheck i = none → s.Undisturbed i →
    (∀ b ∈ s.busAnswers, b = false) →
    ∃ t u, exec i s = .next t ∧
      exec i { s with d := d', v := v', ivref := ivref', items := items', s2vActive := active' } = .next u ∧
      u = { t with ivref := ivref', items := items' }

/-! ### Errors -/

/-- R232: a failing pre-check changes only BUSY, DONE, ERR and ERRCODE and makes no access; a failing KEY_LOAD also destroys
the key and clears the staging registers, the sequence and ITEMS. -/
def Obligations.PreCheckFailureChangesOnlyStatus : Prop :=
  ∀ (s : State) (i : Instr) (e : ErrCode), s.preCheck i = some e →
    (i ≠ .keyLoad →
      exec i s = .next { s with err := true, errCode := e, stage := .idle, done := true, raced := false }) ∧
    (i = .keyLoad →
      exec i s = .next
        { s with
          keyW := Vector.replicate 16 0, d := 0, s2vActive := false, items := 0, k1 := Vector.replicate 32 0,
          k2 := Vector.replicate 32 0, keyValid := false, err := true, errCode := e, stage := .idle, done := true,
          raced := false })

/-- R231: a command fails a pre-check exactly when the cause of some pre-check error holds, and it reports the one that comes
first in the fixed order. That the range of 2^64 bytes from address 0 is no cause of RANGE is the model's reading of R238
(log entry 13). -/
def Obligations.FirstFailingPreCheckIsReported : Prop :=
  ∀ (s : State) (i : Instr),
    (s.preCheck i = none ↔ ∀ e, ¬ s.cause i e) ∧
    (∀ e, s.preCheck i = some e →
      s.cause i e ∧ ∀ e', s.cause i e' → e.priority ≤ e'.priority)

/-- R240: after a bus error the sequence is ended, V, OUTLEN, ITEMS and AUTH_OK keep their values, and each byte of the output
range holds its old value or the value the command writes there on success. -/
def Obligations.BusErrorLeavesOldOrNewBytes : Prop :=
  ∀ (s t : State) (i : Instr), exec i s = .next t → s.Undisturbed i → s.errCode = .none → Memory.wf s.mem = true →
    t.errCode = .busError →
    t.s2vActive = false ∧ t.d = 0 ∧ t.v = s.v ∧ t.outlen = s.outlen ∧ t.items = s.items ∧ t.authOk = s.authOk ∧
    t.err = true ∧ t.done = true ∧ t.busy = false ∧
    (∀ x, ¬ (s.writeSpan i).has x → Memory.read t.mem x = Memory.read s.mem x) ∧
    (∀ j, j < (s.writeSpan i).len →
      Memory.read t.mem ((s.writeSpan i).base + j) = Memory.read s.mem ((s.writeSpan i).base + j) ∨
      (s.output i)[j]? = some (Memory.read t.mem ((s.writeSpan i).base + j)))

/-- R94, log entry 7: past its pre-check a command whose buffers raced still completes, keeps every byte outside its output
range, reports one of the codes of R230, and ERR says whether that code is NONE. Nothing is said of the drawn values. The last
clause says what disturbs a command (R86, R94, R98): of the bytes not written back, one it reads, or one in a cached line
of its output range. Lines of no given size are the model's reading (log entry 10). -/
def Obligations.RacedCommandStaysInItsRange : Prop :=
  ∀ (s : State) (i : Instr), Instr.usesDma i → s.preCheck i = none →
    windowHit (s.writeSpan i :: s.readSpans i) = false → s.hazard (s.readSpans i) (s.writeSpan i) = true →
    ∃ t, exec i s = .next t ∧ t.busy = false ∧ t.done = true ∧ (t.err = true ↔ t.errCode ≠ .none) ∧
      (∀ x, ¬ (s.writeSpan i).has x → Memory.read t.mem x = Memory.read s.mem x) ∧
      t.k1 = s.k1 ∧ t.k2 = s.k2 ∧ t.keyValid = s.keyValid ∧ t.ivref = s.ivref ∧
      (s.raced = true ∨
        (∃ y ∈ s.writeSpan i :: s.readSpans i, ∃ dev ∈ s.devices, ∃ a, y.has a ∧ dev.has a) ∨
        (Config.dmaCoherent = false ∧
          ∃ a ∈ s.hostDirty, (s.writeSpan i).touchesLine a ∨ ∃ y ∈ s.readSpans i, y.has a))

/-- U6, log entry 9: past its pre-check a command with a buffer over the CSR window is refused by name. -/
def Obligations.BufferOverWindowIsRefused : Prop :=
  ∀ (s : State) (i : Instr), s.preCheck i = none →
    (exec i s = .refused .csrWindowInBuffer ↔
      Instr.usesDma i ∧ ∃ x ∈ s.writeSpan i :: s.readSpans i, ∃ a, x.has a ∧ windowSpan.has a)

/-! ### Frames -/

/-- No command writes KEYLEN, an address or length operand, IRQ_EN, OVR or the pending reset, and none changes the queue, the
last answer or the devices. The bytes that wait to be written back stay, and after a race over such a line the bytes the
command wrote under it wait too (R98, log entry 10). -/
def Obligations.CommandsKeepAddressLengthAndControlFields : Prop :=
  ∀ (s t : State) (i : Instr), exec i s = .next t →
    t.keylen = s.keylen ∧ t.src = s.src ∧ t.srclen = s.srclen ∧ t.dst = s.dst ∧ t.aad = s.aad ∧
    t.aadlen = s.aadlen ∧ t.irqEn = s.irqEn ∧ t.ovr = s.ovr ∧ t.srPending = s.srPending ∧ t.inbox = s.inbox ∧
    t.resp = s.resp ∧ t.devices = s.devices ∧
    (s.hazard (s.readSpans i) (s.writeSpan i) = false → t.hostDirty = s.hostDirty) ∧
    (∀ a ∈ s.hostDirty, a ∈ t.hostDirty) ∧
    (∀ a ∈ t.hostDirty,
      a ∈ s.hostDirty ∨ ((s.writeSpan i).has a ∧ ∃ b ∈ s.hostDirty, Config.cacheLine a = Config.cacheLine b))

/-- The key, the staging registers, IVREF, ITEMS and V change only by the commands the spec names for each. -/
def Obligations.CommandsKeepKeyAndResultRegisters : Prop :=
  ∀ (s t : State) (i : Instr), exec i s = .next t →
    (i ≠ .keyLoad → i ≠ .keyClear →
      t.k1 = s.k1 ∧ t.k2 = s.k2 ∧ t.keyValid = s.keyValid ∧ t.keyW = s.keyW) ∧
    (i ≠ .keyClear → t.ivref = s.ivref) ∧
    (i ≠ .keyLoad → i ≠ .keyClear → i ≠ .s2vInit → i ≠ .s2vAd → t.items = s.items) ∧
    (i ≠ .keyClear → i ≠ .s2vFinal → i ≠ .sivEncrypt → i ≠ .sivDecrypt → s.Undisturbed i → t.v = s.v) ∧
    (i ≠ .ctrXform → i ≠ .sivEncrypt → i ≠ .sivDecrypt → s.Undisturbed i → t.outlen = s.outlen) ∧
    (i ≠ .ivVerify → i ≠ .sivDecrypt → s.Undisturbed i → t.authOk = s.authOk)

/-- R82: no command writes a byte outside its output range, on success, on any error, or after a race; a command that fails its
pre-check, and one without an output range, writes none. Of each byte it changes, and only of bytes of its range, the
host's caches may keep the one from before (R98, log entry 10). -/
def Obligations.CommandsWriteOnlyTheirOutputRange : Prop :=
  ∀ (s t : State) (i : Instr), exec i s = .next t →
    (∀ x, ¬ (s.writeSpan i).has x → Memory.read t.mem x = Memory.read s.mem x) ∧
    ((∃ e, s.preCheck i = some e) → t.mem = s.mem) ∧
    (i ≠ .ctrXform → i ≠ .sivEncrypt → i ≠ .sivDecrypt → t.mem = s.mem) ∧
    (∀ c, c ∈ t.hostStale → c ∈ s.hostStale ∨ ((s.writeSpan i).has c.1 ∧ c.2 = Memory.read s.mem c.1)) ∧
    (∀ c ∈ s.hostStale, c ∈ t.hostStale) ∧
    (∀ x, Memory.read t.mem x ≠ Memory.read s.mem x → (x, Memory.read s.mem x) ∈ t.hostStale)

/-! ### Invariants -/

/-- The invariant is kept by every step, whatever the next turn is. -/
def Obligations.StepKeepsTheEngineInvariant : Prop :=
  ∀ s t : State, s.Inv → step s = .next t → t.Inv

/-- The invariant holds at reset, and of what `withFetchWord` makes of a state it holds of. -/
def Obligations.ResetMeetsTheEngineInvariant : Prop :=
  State.reset.Inv ∧ ∀ (s : State) (nbits w : Nat), s.Inv → (s.withFetchWord nbits w).Inv

/-! ### Registers, interrupt, resets -/

/-- R57: every register reads its reset value, and the hidden state holds its own, after reset and after a soft reset. -/
def Obligations.ResetLeavesTheTableValues : Prop :=
  ∀ r : State, (r = State.reset ∨ ∃ s : State, r = s.resetEngine) →
    (∀ c : Csr, readCsr c r = if c = .id then 0x53325601 else if c = .keysz then 64 else 0) ∧
    r.k1 = Vector.replicate 32 0 ∧ r.k2 = Vector.replicate 32 0 ∧ r.keyW = Vector.replicate 16 0 ∧ r.d = 0 ∧
    r.stage = .idle ∧ r.srPending = false ∧ r.irq = false

/-- R272: a soft-reset request while idle resets every register at once and keeps memory; while busy it only becomes
pending. That such a write leaves IRQ_EN alone while busy is the model's reading (log entry 12). -/
def Obligations.SoftResetRequest : Prop :=
  ∀ (s : State) (w : Word) (rest : List Input), s.inbox = .csrWrite 0x004 4 w :: rest → w.getLsbD 1 = true →
    (s.busy = false →
      step s = .next
        { State.reset with
          mem := s.mem, inbox := rest, resp := .done, busAnswers := s.busAnswers, devices := s.devices,
          hostDirty := s.hostDirty, hostStale := s.hostStale, draws := s.draws }) ∧
    (s.busy = true → step s = .next { s with inbox := rest, resp := .done, srPending := true })

/-- R270, R273, R274: the step of a hardware reset, idle or busy, and the engine's turn with a soft reset pending. Every
register and hidden state item is reset without completing the command. Where no legal command runs memory is as before;
else each byte is old or, in the output range of a command past its pre-checks, the value written on success; SIV_DECRYPT
writes none without a match, nor when pass 1 meets a bus error (R209). That a
hardware reset is one step which settles those bytes is the model's reading (log entry 17). -/
def Obligations.ResetAbortsTheRunningCommand : Prop :=
  ∀ (s : State) (rest : List Input),
    (s.inbox = .hwReset :: rest ∨ (s.busy = true ∧ s.srPending = true ∧ s.engineNext rest)) →
    (s.running = none →
      step s = .next
        { State.reset with
          mem := s.mem, inbox := rest, resp := s.resp, busAnswers := s.busAnswers, devices := s.devices,
          hostDirty := s.hostDirty, hostStale := s.hostStale, draws := s.draws }) ∧
    (∀ i, s.running = some i → s.Undisturbed i → Memory.wf s.mem = true →
      ∃ t, step s = .next t ∧
        t = { State.reset with
          mem := t.mem, inbox := rest, resp := s.resp, busAnswers := s.busAnswers, devices := s.devices,
          hostDirty := s.hostDirty, hostStale := t.hostStale, draws := t.draws } ∧
        (∀ x, Memory.read t.mem x = Memory.read s.mem x ∨
          (s.preCheck i = none ∧ ∃ j, x = (s.writeSpan i).base + j ∧ (s.output i)[j]? = some (Memory.read t.mem x))) ∧
        (i = .sivDecrypt → (s.decMatch = false ∨ busFails s.decPass1 s.busAnswers = true) → t.mem = s.mem))

/-- R35, R281: a write to a read-only register or a reserved offset is ignored at all times; a STATUS write, and a CTRL write
that asks for no soft reset, take effect whatever BUSY is. While BUSY = 1 a write to an operand register or CMD is dropped
and sets OVR, and a soft-reset request becomes pending. That a CTRL write with bit 1 set leaves IRQ_EN alone is the
model's reading (log entry 12). -/
def Obligations.ControlWritesAndWritesWhileBusy : Prop :=
  ∀ (s : State) (off : Nat) (w : Word) (rest : List Input),
    s.inbox = .csrWrite off 4 w :: rest → off % 4 = 0 → off < 0x1000 →
    let s' : State := { s with inbox := rest, resp := .done }
    ((off = 0x000 ∨ off = 0x014 ∨ off = 0x018 ∨ off = 0x01C ∨ off = 0x048 ∨ off = 0x04C ∨ 0x0B0 ≤ off) →
      step s = .next s') ∧
    (off = 0x004 → w.getLsbD 1 = false → step s = .next { s' with irqEn := w.getLsbD 0 }) ∧
    (off = 0x008 → step s = .next (State.writeStatus w s')) ∧
    (s.busy = true →
      ((off = 0x00C ∨ off = 0x010 ∨ (0x020 ≤ off ∧ off < 0x048) ∨ (0x050 ≤ off ∧ off < 0x0B0)) →
        step s = .next { s' with ovr := true }) ∧
      (off = 0x004 → w.getLsbD 1 = true → step s = .next { s' with srPending := true }))

/-- R32, R282: the step of a well-formed read, at every offset of the map, while idle and while BUSY = 1. It answers the
register's value and changes no register. V and OUTLEN read 0 while BUSY = 1 (R45, R47), KEY_W and CMD always; byte `j`
of the lane of word `i` of V and IVREF is byte `4·i + j` of the block (R47, R48). -/
def Obligations.CsrReadsAnswerTheRegisters : Prop :=
  ∀ (s : State) (off : Nat) (rest : List Input),
    s.inbox = .csrRead off 4 :: rest → off % 4 = 0 → off < 0x1000 →
    ∃ w : Word, step s = .next { s with inbox := rest, resp := .data w } ∧
      (∀ p ∈ [((0x000 : Nat), (0x53325601 : Word)), (0x004, if s.irqEn then 1 else 0), (0x008, s.statusWord), (0x00C, 0),
          (0x010, s.keylen), (0x014, 64), (0x018, s.items),
          (0x020, s.src.extractLsb' 0 32), (0x024, s.src.extractLsb' 32 32),
          (0x028, s.srclen.extractLsb' 0 32), (0x02C, s.srclen.extractLsb' 32 32),
          (0x030, s.dst.extractLsb' 0 32), (0x034, s.dst.extractLsb' 32 32),
          (0x038, s.aad.extractLsb' 0 32), (0x03C, s.aad.extractLsb' 32 32),
          (0x040, s.aadlen.extractLsb' 0 32), (0x044, s.aadlen.extractLsb' 32 32),
          (0x048, if s.busy then 0 else s.outlen.extractLsb' 0 32),
          (0x04C, if s.busy then 0 else s.outlen.extractLsb' 32 32)],
        off = p.1 → w = p.2) ∧
      (∀ i : Fin 16, off = 0x050 + 4 * i.val → w = 0) ∧
      (∀ i j : Fin 4,
        (off = 0x090 + 4 * i.val →
          w.extractLsb' (8 * j.val) 8 =
            if s.busy then 0 else s.v.extractLsb' (8 * (15 - (4 * i.val + j.val))) 8) ∧
        (off = 0x0A0 + 4 * i.val →
          w.extractLsb' (8 * j.val) 8 = s.ivref.extractLsb' (8 * (15 - (4 * i.val + j.val))) 8))

/-- R252: an access that is not 32-bit, aligned and inside the window gets an error response and changes nothing else; an aligned
access to a reserved offset reads 0 and writes nothing. -/
def Obligations.BadCsrAccessGetsErrorResponse : Prop :=
  ∀ (s : State) (off size : Nat) (w : Word) (rest : List Input),
    (¬ (size = 4 ∧ off % 4 = 0 ∧ off < 0x1000) →
      (s.inbox = .csrWrite off size w :: rest ∨ s.inbox = .csrRead off size :: rest) →
      step s = .next { s with inbox := rest, resp := .slvErr }) ∧
    (size = 4 → off % 4 = 0 → off = 0x01C ∨ (0x0B0 ≤ off ∧ off < 0x1000) →
      (s.inbox = .csrWrite off size w :: rest → step s = .next { s with inbox := rest, resp := .done }) ∧
      (s.inbox = .csrRead off size :: rest → step s = .next { s with inbox := rest, resp := .data 0 }))

/-- R32: the offset of each register as the map's table gives it, and no other offset inside the window selects it. -/
def Obligations.RegisterMapHasNoAliases : Prop :=
  (∀ p ∈ [(Csr.id, 0x000), (.ctrl, 0x004), (.status, 0x008), (.cmd, 0x00C), (.keylen, 0x010), (.keysz, 0x014),
      (.items, 0x018), (.reserved, 0x01C), (.srcLo, 0x020), (.srcHi, 0x024), (.srclenLo, 0x028), (.srclenHi, 0x02C),
      (.dstLo, 0x030), (.dstHi, 0x034), (.aadLo, 0x038), (.aadHi, 0x03C), (.aadlenLo, 0x040), (.aadlenHi, 0x044),
      (.outlenLo, 0x048), (.outlenHi, 0x04C)],
    Csr.ofOffset p.2 = p.1) ∧
  (∀ i : Fin 16, Csr.ofOffset (0x050 + 4 * i.val) = .keyW i) ∧
  (∀ i : Fin 4, Csr.ofOffset (0x090 + 4 * i.val) = .vW i ∧ Csr.ofOffset (0x0A0 + 4 * i.val) = .ivrefW i) ∧
  (∀ off : Nat, 0x0B0 ≤ off → Csr.ofOffset off = .reserved) ∧
  (∀ c : Csr, Csr.ofOffset c.offset = c ∧ c.offset % 4 = 0 ∧ c.offset < 0x1000) ∧
  (∀ off : Nat, off % 4 = 0 → off < 0x1000 → Csr.ofOffset off ≠ .reserved → (Csr.ofOffset off).offset = off)

/-- The whole next state of each operand write while idle: the register at the offset takes the word, half of a pair keeps
the other half, a word of V or IVREF takes lane byte `j` as byte `4·i + j` of the block and keeps the block's other bytes,
and nothing else changes (R30, R32, R37, R40 to R44, R46 to R49). What is written reads back; KEY_W reads 0 even so. -/
def Obligations.OperandWriteChangesOnlyItsRegister : Prop :=
  ∀ (s : State) (w : Word), s.busy = false →
    (∀ (off : Nat) (rest : List Input), s.inbox = .csrWrite off 4 w :: rest →
      let s' : State := { s with inbox := rest, resp := .done }
      (∀ p ∈ [((0x010 : Nat), { s' with keylen := w }),
          (0x020, { s' with src := s.src.extractLsb' 32 32 ++ w }),
          (0x024, { s' with src := w ++ s.src.extractLsb' 0 32 }),
          (0x028, { s' with srclen := s.srclen.extractLsb' 32 32 ++ w }),
          (0x02C, { s' with srclen := w ++ s.srclen.extractLsb' 0 32 }),
          (0x030, { s' with dst := s.dst.extractLsb' 32 32 ++ w }),
          (0x034, { s' with dst := w ++ s.dst.extractLsb' 0 32 }),
          (0x038, { s' with aad := s.aad.extractLsb' 32 32 ++ w }),
          (0x03C, { s' with aad := w ++ s.aad.extractLsb' 0 32 }),
          (0x040, { s' with aadlen := s.aadlen.extractLsb' 32 32 ++ w }),
          (0x044, { s' with aadlen := w ++ s.aadlen.extractLsb' 0 32 })],
        off = p.1 → step s = .next p.2) ∧
      (∀ i : Fin 16, off = 0x050 + 4 * i.val → step s = .next { s' with keyW := s.keyW.set i.val w }) ∧
      (∀ i : Fin 4,
        (off = 0x090 + 4 * i.val → ∃ b : Block, step s = .next { s' with v := b } ∧
          ∀ k : Fin 16, b.extractLsb' (8 * (15 - k.val)) 8 =
            if k.val / 4 = i.val then w.extractLsb' (8 * (k.val % 4)) 8 else s.v.extractLsb' (8 * (15 - k.val)) 8) ∧
        (off = 0x0A0 + 4 * i.val → ∃ b : Block, step s = .next { s' with ivref := b } ∧
          ∀ k : Fin 16, b.extractLsb' (8 * (15 - k.val)) 8 =
            if k.val / 4 = i.val then w.extractLsb' (8 * (k.val % 4)) 8
            else s.ivref.extractLsb' (8 * (15 - k.val)) 8))) ∧
    (∀ c ∈ [Csr.keylen, .srcLo, .srcHi, .srclenLo, .srclenHi, .dstLo, .dstHi, .aadLo, .aadHi, .aadlenLo, .aadlenHi],
      readCsr c (writeCsr c w s) = w) ∧
    (∀ p ∈ [(Csr.srcLo, Csr.srcHi), (.srclenLo, .srclenHi), (.dstLo, .dstHi), (.aadLo, .aadHi),
        (.aadlenLo, .aadlenHi)],
      readCsr p.2 (writeCsr p.1 w s) = readCsr p.2 s ∧ readCsr p.1 (writeCsr p.2 w s) = readCsr p.1 s) ∧
    (∀ i j : Fin 4,
      readCsr (.vW j) (writeCsr (.vW i) w s) = (if j = i then w else readCsr (.vW j) s) ∧
      readCsr (.ivrefW j) (writeCsr (.ivrefW i) w s) = (if j = i then w else readCsr (.ivrefW j) s)) ∧
    (∀ i : Fin 16, readCsr (.keyW i) (writeCsr (.keyW i) w s) = 0 ∧ (writeCsr (.keyW i) w s).keyW[i.val] = w)

/-- R35, R230: where each field of STATUS stands, the ten numeric error codes, and what a write clears. -/
def Obligations.StatusFieldsAndWrites : Prop :=
  ∀ (s : State) (w : Word),
    s.statusWord.getLsbD 0 = s.busy ∧ s.statusWord.getLsbD 1 = s.done ∧ s.statusWord.getLsbD 2 = s.err ∧
    s.statusWord.getLsbD 3 = s.keyValid ∧ s.statusWord.getLsbD 4 = s.s2vActive ∧
    s.statusWord.getLsbD 5 = s.authOk ∧ s.statusWord.getLsbD 6 = s.ovr ∧ s.statusWord.getLsbD 7 = false ∧
    (ErrCode.none.code = 0x00 ∧ ErrCode.invalidKeySize.code = 0x01 ∧ ErrCode.invalidCiphertext.code = 0x02 ∧
      ErrCode.authFailed.code = 0x03 ∧ ErrCode.noKey.code = 0x04 ∧ ErrCode.illegalCmd.code = 0x05 ∧
      ErrCode.s2vSequence.code = 0x06 ∧ ErrCode.range.code = 0x07 ∧ ErrCode.overlap.code = 0x08 ∧
      ErrCode.busError.code = 0x09) ∧
    s.statusWord.extractLsb' 8 8 = s.errCode.code ∧ s.statusWord.extractLsb' 16 16 = 0 ∧
    s.writeStatus w =
      { s with
        done := s.done && !w.getLsbD 1
        err := s.err && !w.getLsbD 2
        errCode := if w.getLsbD 2 then .none else s.errCode
        ovr := s.ovr && !w.getLsbD 6 }

/-- R250: when the interrupt is pending, raised and cleared. -/
def Obligations.InterruptIsEnableAndDone : Prop :=
  ∀ (s : State) (w : Word),
    s.irq = (s.irqEn && s.done) ∧
    s.complete.irq = s.irqEn ∧
    (w.getLsbD 1 = true → (s.writeStatus w).irq = false) ∧
    (s.accept w).irq = false ∧ s.resetEngine.irq = false ∧
    (w.getLsbD 1 = false → w.getLsbD 0 = true → (s.writeCtrl w).irq = s.done) ∧
    (w.getLsbD 1 = false → w.getLsbD 0 = false → (s.writeCtrl w).irq = false ∧ (s.writeCtrl w).done = s.done)

/-- R254: two states that differ only in K1, K2, D and the staged key answer every read of the CSR window, and every load of
memory while no command runs, alike. -/
def Obligations.SecretsCannotBeReadBack : Prop :=
  ∀ (s : State) (k1' k2' : Key) (d' : Block) (kw' : Vector Word 16) (x : Input) (rest : List Input),
    s.inbox = x :: rest →
    ((∃ off size, x = .csrRead off size) ∨ (s.busy = false ∧ ∃ a n, x = .memLoad a n)) →
    let s' : State := { s with k1 := k1', k2 := k2', d := d', keyW := kw' }
    ∀ t, step s = .next t → step s' = .next { t with k1 := k1', k2 := k2', d := d', keyW := kw' }

/-! ### Memory and the host -/

/-- R238, R239: the range and overlap tests, in exact arithmetic. Two ranges overlap exactly when they share an address. -/
def Obligations.RangeAndOverlapTestsAreExact : Prop :=
  ∀ x y : Span,
    (x.inRange = true ↔ x.base + x.len ≤ 2 ^ 64) ∧
    (x.overlaps y = true ↔ ∃ a, x.has a ∧ y.has a)

/-- R83, R94, R98, R99: the whole next state of a store, idle and busy. A host store puts its bytes in memory; exactly its
addresses, and those of stale copies in its lines, join the bytes not written back, and exactly its copies go, so that a
later load returns it, byte for byte, even where the host's caches held stale copies: that is the model's choice (log
entry 10). The store of another agent leaves
copies of the bytes from before, and is free where it meets a line not written back: that is the model's choice (log
entry 24). So are the turns (log entry 3). -/
def Obligations.StoresChangeOnlyTheirBytes : Prop :=
  ∀ (s : State) (a : DWord) (bs : Bytes) (rest : List Input),
    a.toNat + bs.length ≤ 2 ^ 64 → windowHit [⟨a.toNat, bs.length⟩] = false →
    (∀ dev ∈ s.devices, Span.overlaps ⟨a.toNat, bs.length⟩ dev = false) → Memory.wf s.mem = true →
    let x : Span := ⟨a.toNat, bs.length⟩
    let races : Prop := ∃ i, s.running = some i ∧ ∃ y ∈ s.writeSpan i :: s.readSpans i, ∃ b, y.has b ∧ x.has b
    (s.inbox = .memStore a bs :: rest →
      ∃ t, step s = .next t ∧
        t = { s with
          inbox := rest, mem := t.mem, hostDirty := t.hostDirty, hostStale := t.hostStale, raced := t.raced,
          resp := .done } ∧
        Memory.readBytes t.mem a.toNat bs.length = bs ∧
        (∀ b, ¬ x.has b → Memory.read t.mem b = Memory.read s.mem b) ∧
        (∀ b, b ∈ t.hostDirty ↔
          b ∈ s.hostDirty ∨ x.has b ∨ (x.touchesLine b ∧ ∃ v, (b, v) ∈ s.hostStale)) ∧
        (∀ c, c ∈ t.hostStale ↔ c ∈ s.hostStale ∧ ¬ x.has c.1) ∧
        (t.raced = true ↔ s.raced = true ∨ races) ∧
        (s.busy = false → ∀ rest', rest = .memLoad a bs.length :: rest' →
          step t = .next { t with inbox := rest', resp := .bytes bs, draws := s.draws + 1 })) ∧
    (s.inbox = .agentStore a bs :: rest →
      ∃ t, step s = .next t ∧
        t = { s with
          inbox := rest, mem := t.mem, hostDirty := t.hostDirty, hostStale := t.hostStale, raced := t.raced,
          resp := .done, draws := s.draws + 1 } ∧
        ((Config.dmaCoherent = true ∨ ∀ b ∈ s.hostDirty, ¬ x.touchesLine b) →
          Memory.readBytes t.mem a.toNat bs.length = bs) ∧
        (∀ b, ¬ x.has b → Memory.read t.mem b = Memory.read s.mem b) ∧
        (∀ b, b ∈ t.hostDirty ↔
          b ∈ s.hostDirty ∨ (x.has b ∧ ∃ d ∈ s.hostDirty, Config.cacheLine b = Config.cacheLine d)) ∧
        (∀ c, c ∈ t.hostStale ↔ c ∈ s.hostStale ∨ (x.has c.1 ∧ c.2 = Memory.read s.mem c.1)) ∧
        (t.raced = true ↔ s.raced = true ∨ races))

/-- R94, R98: a store by the host or another agent into a buffer of the running command is recorded as a race, and a store
elsewhere is none. So is cache maintenance, on a platform that needs it, that comes too late for a byte which was not
written back: one the command reads, or one in a cached line of its output range. That it is recorded at its arrival is
the model's choice (log entries 7 and 10). -/
def Obligations.LateHostWriteToRunningBufferIsARace : Prop :=
  ∀ (s t : State) (i : Instr) (rest : List Input), s.running = some i → step s = .next t →
    (∀ (a : DWord) (bs : Bytes), (s.inbox = .memStore a bs :: rest ∨ s.inbox = .agentStore a bs :: rest) →
      (t.raced = true ↔
        s.raced = true ∨
        ∃ x ∈ s.writeSpan i :: s.readSpans i, ∃ b, x.has b ∧ a.toNat ≤ b ∧ b < a.toNat + bs.length)) ∧
    (∀ x : Span, (s.inbox = .cacheClean x :: rest ∨ s.inbox = .cacheInvalidate x :: rest) →
      (t.raced = true ↔
        s.raced = true ∨
        (Config.dmaCoherent = false ∧
          ∃ b ∈ s.hostDirty, x.touchesLine b ∧ ((s.writeSpan i).touchesLine b ∨ ∃ y ∈ s.readSpans i, y.has b))))

/-- R85, R98, R285, U8: each byte of a host load is the byte memory holds, or the one that the running command writes there
on success, or, on a platform that needs cache maintenance, a copy that the host has not invalidated. Cleaning and
invalidating a range take effect for exactly the lines that hold a byte of it; of memory they change only bytes of those
lines that wait to be written back, a clean only to a copy. How a load while BUSY = 1 and the host's
caches are represented is the model's choice (log entries 10, 16 and 23). -/
def Obligations.HostLoadsAndCacheMaintenance : Prop :=
  ∀ (s : State) (rest : List Input),
    (∀ (a : DWord) (n : Nat), s.inbox = .memLoad a n :: rest → a.toNat + n ≤ 2 ^ 64 →
      windowHit [⟨a.toNat, n⟩] = false → (∀ dev ∈ s.devices, Span.overlaps ⟨a.toNat, n⟩ dev = false) →
      Memory.wf s.mem = true → (∀ i, s.running = some i → s.Undisturbed i) →
      ∃ bs : Bytes, step s = .next { s with inbox := rest, resp := .bytes bs, draws := s.draws + 1 } ∧ bs.length = n ∧
        ∀ j x, bs[j]? = some x →
          x = Memory.read s.mem (a.toNat + j) ∨
          (∃ i k, s.running = some i ∧ s.preCheck i = none ∧ a.toNat + j = (s.writeSpan i).base + k ∧
            (s.output i)[k]? = some x ∧
            (i = .sivDecrypt → s.decMatch = true ∧ busFails s.decPass1 s.busAnswers = false)) ∨
          (Config.dmaCoherent = false ∧ (a.toNat + j, x) ∈ s.hostStale)) ∧
    (∀ x : Span, s.inbox = .cacheClean x :: rest →
      ∃ t, step s = .next t ∧
        t = { s with
          inbox := rest, mem := t.mem, hostDirty := t.hostDirty, raced := t.raced, resp := .done,
          draws := s.draws + 1 } ∧
        (∀ a, a ∈ t.hostDirty ↔ a ∈ s.hostDirty ∧ ¬ x.touchesLine a) ∧
        (Memory.wf s.mem = true → ∀ a, Memory.read t.mem a = Memory.read s.mem a ∨
          (Config.dmaCoherent = false ∧ a ∈ s.hostDirty ∧ x.touchesLine a ∧
            (a, Memory.read t.mem a) ∈ s.hostStale))) ∧
    (∀ x : Span, s.inbox = .cacheInvalidate x :: rest →
      ∃ t, step s = .next t ∧
        t = { s with
          inbox := rest, mem := t.mem, hostDirty := t.hostDirty, hostStale := t.hostStale, raced := t.raced,
          resp := .done, draws := s.draws + 1 } ∧
        (∀ a, a ∈ t.hostDirty ↔ a ∈ s.hostDirty ∧ ¬ x.touchesLine a) ∧
        (∀ c, c ∈ t.hostStale ↔ c ∈ s.hostStale ∧ ¬ x.touchesLine c.1) ∧
        ∀ a, (Config.dmaCoherent = true ∨ a ∉ s.hostDirty ∨ ¬ x.touchesLine a) →
          Memory.read t.mem a = Memory.read s.mem a)
end

