-- ==== Sys2Proof/Laws/Crypto.lean ====
section
/-! SUPPORT. The laws of byte order, byte-wise XOR and the lengths of the construction's strings. -/

namespace Sys2Proof

@[simp] theorem length_blockBytes (b : Block) : (blockBytes b).length = 16 := by simp [blockBytes]

@[simp] theorem length_laneBytes (w : Word) : (laneBytes w).length = 4 := by simp [laneBytes]

theorem getElem_blockBytes (b : Block) (i : Nat) (h : i < (blockBytes b).length) :
    (blockBytes b)[i] = BitVec.ofNat 8 (b.toNat / 256 ^ (15 - i)) := by simp [blockBytes]

theorem int128_append_singleton (bs : Bytes) (x : Byte) : int128 (bs ++ [x]) = int128 bs * 256 + x.toNat := by
  simp [int128, List.foldl_append]

/-- The first `k` bytes of a block are the top of its integer. -/
theorem int128_prefix (n k : Nat) (hk : k ≤ 16) (hn : n < 2 ^ 128) :
    int128 ((List.range k).map fun i => BitVec.ofNat 8 (n / 256 ^ (15 - i))) = n / 256 ^ (16 - k) := by
  induction k with
  | zero => simp only [List.range_zero, List.map_nil, Nat.sub_zero]; simp [int128]; omega
  | succ k ih =>
    rw [List.range_succ, List.map_append, List.map_cons, List.map_nil, int128_append_singleton, ih (by omega)]
    have h1 : 16 - k = (15 - k) + 1 := by omega
    have h2 : 16 - (k + 1) = 15 - k := by omega
    rw [h1, h2, Nat.pow_succ, ← Nat.div_div_eq_div_mul, BitVec.toNat_ofNat]
    omega

/-- R11: `blk` inverts `int128`. -/
@[simp] theorem bytesBlock_blockBytes (b : Block) : bytesBlock (blockBytes b) = b := by
  rw [bytesBlock, blockBytes, int128_prefix b.toNat 16 (Nat.le_refl _) b.isLt]
  simp

theorem blockBytes_injective {a b : Block} (h : blockBytes a = blockBytes b) : a = b := by
  have := congrArg bytesBlock h
  simpa using this

theorem int128_lt (bs : Bytes) : int128 bs < 256 ^ bs.length := by
  induction bs using List.reverseRecOn with
  | nil => simp [int128]
  | append_singleton bs x ih =>
    rw [int128_append_singleton, List.length_append, List.length_singleton, Nat.pow_succ]
    have := x.isLt
    omega

/-- `int128` of a string's prefix, by division. -/
theorem int128_take (bs : Bytes) (k : Nat) (hk : k ≤ bs.length) :
    int128 (bs.take k) = int128 bs / 256 ^ (bs.length - k) := by
  induction bs using List.reverseRecOn with
  | nil => simp [int128]
  | append_singleton bs x ih =>
    rcases Nat.lt_or_ge bs.length k with h | h
    · have hk' : k = bs.length + 1 := by simp at hk; omega
      have hfull : (bs ++ [x]).take k = bs ++ [x] := List.take_of_length_le (by simp [hk'])
      rw [hfull, hk']
      simp
    · rw [List.take_append_of_le_length h, ih h, int128_append_singleton, List.length_append, List.length_singleton,
        show bs.length + 1 - k = (bs.length - k) + 1 by omega, Nat.pow_succ, Nat.mul_comm (256 ^ _), ← Nat.div_div_eq_div_mul]
      congr 1
      have := x.isLt
      omega

theorem getElem_eq_int128 (bs : Bytes) (i : Nat) (h : i < bs.length) :
    bs[i] = BitVec.ofNat 8 (int128 bs / 256 ^ (bs.length - 1 - i)) := by
  have h1 := int128_take bs (i + 1) (by omega)
  have h2 : bs.take (i + 1) = bs.take i ++ [bs[i]] := by rw [List.take_append_getElem]
  rw [h2, int128_append_singleton] at h1
  have h3 : bs.length - (i + 1) = bs.length - 1 - i := by omega
  rw [h3] at h1
  rw [← h1]
  apply BitVec.eq_of_toNat_eq
  have := (bs[i]).isLt
  simp only [BitVec.toNat_ofNat]
  omega

/-- R11: `int128` inverts `blk` on strings of 16 bytes. -/
theorem blockBytes_bytesBlock (bs : Bytes) (h : bs.length = 16) : blockBytes (bytesBlock bs) = bs := by
  refine List.ext_getElem (by simp [h]) fun i h1 h2 => ?_
  have hlt := int128_lt bs
  rw [h] at hlt
  rw [getElem_blockBytes, getElem_eq_int128 bs i h2, bytesBlock, BitVec.toNat_ofNat, h,
    Nat.mod_eq_of_lt (by simpa using hlt)]

/-! ### XOR of byte strings -/

@[simp] theorem length_xorBytes (a b : Bytes) : (xorBytes a b).length = min a.length b.length := by
  simp [xorBytes]

@[simp] theorem xorBytes_nil_left (b : Bytes) : xorBytes [] b = [] := rfl

@[simp] theorem xorBytes_cons (x y : Byte) (a b : Bytes) : xorBytes (x :: a) (y :: b) = (x ^^^ y) :: xorBytes a b := rfl

theorem getElem_xorBytes (a b : Bytes) (i : Nat) (h : i < (xorBytes a b).length) :
    (xorBytes a b)[i] =
      a[i]'(by simp at h; omega) ^^^ b[i]'(by simp at h; omega) := by
  simp [xorBytes]

/-- XOR with one string twice restores the other. -/
theorem xorBytes_xorBytes (a k : Bytes) (h : a.length ≤ k.length) : xorBytes (xorBytes a k) k = a := by
  induction a generalizing k with
  | nil => rfl
  | cons x a ih =>
    cases k with
    | nil => simp at h
    | cons y k =>
      simp only [xorBytes_cons, BitVec.xor_assoc, BitVec.xor_self, BitVec.xor_zero]
      rw [ih k (by simpa using h)]

/-! ### Lengths -/

@[simp] theorem length_zeroBlock : zeroBlock.length = 16 := rfl

theorem length_pad (s : Bytes) (h : s.length ≤ 15) : (pad s).length = 16 := by
  simp [pad]; omega

theorem length_xorend (s : Bytes) (d : Block) (h : 16 ≤ s.length) : (xorend s d).length = s.length := by
  simp [xorend]; omega

@[simp] theorem length_keystream (e : Key → Block → Block) (k : Key) (q : Block) (n : Nat) :
    (keystream e k q n).length = n := by
  have hsum : ∀ l : List Nat, (l.map fun _ => 16).sum = 16 * l.length := by
    intro l
    induction l with
    | nil => rfl
    | cons x l ih => simp only [List.map_cons, List.sum_cons, List.length_cons, ih]; omega
  simp only [keystream, List.length_take, List.length_flatMap, length_blockBytes, hsum, List.length_range]
  omega

@[simp] theorem length_ctr (e : Key → Block → Block) (k : Key) (iv : Block) (m : Bytes) :
    (ctr e k iv m).length = m.length := by simp [ctr]

/-! ### Lanes -/

theorem laneWord_laneBytes (w : Word) :
    laneWord ((laneBytes w).getD 0 0) ((laneBytes w).getD 1 0) ((laneBytes w).getD 2 0) ((laneBytes w).getD 3 0) = w := by
  have h : laneBytes w = [w.extractLsb' 0 8, w.extractLsb' 8 8, w.extractLsb' 16 8, w.extractLsb' 24 8] := by
    simp [laneBytes, List.range_succ]
  rw [h]
  simp only [laneWord, List.getD_cons_zero, List.getD_cons_succ]
  apply BitVec.eq_of_getLsbD_eq
  intro i hi
  simp only [BitVec.getLsbD_append, BitVec.getLsbD_extractLsb']
  split
  · simp [*]
  · split
    · next h => rw [decide_eq_true h, Bool.true_and]; congr 1; omega
    · split
      · next h => rw [decide_eq_true h, Bool.true_and]; congr 1; omega
      · rw [decide_eq_true (by omega), Bool.true_and]; congr 1; omega

/-- A word written to a block register reads back (R47, R48). -/
theorem blockWord_setBlockWord (b : Block) (i : Nat) (w : Word) (h : i < 4) : blockWord (setBlockWord b i w) i = w := by
  have hl : ((blockBytes b).take (4 * i)).length = 4 * i := by simp; omega
  have hlen : ((blockBytes b).take (4 * i) ++ laneBytes w ++ (blockBytes b).drop (4 * i + 4)).length = 16 := by
    simp; omega
  have hget : ∀ j, j < 4 →
      ((blockBytes b).take (4 * i) ++ laneBytes w ++ (blockBytes b).drop (4 * i + 4)).getD (4 * i + j) 0
        = (laneBytes w).getD j 0 := by
    intro j hj
    rw [List.getD_eq_getElem?_getD, List.getD_eq_getElem?_getD, List.append_assoc,
      List.getElem?_append_right (by omega), hl, List.getElem?_append_left (by simp; omega)]
    congr 2
    omega
  rw [blockWord, setBlockWord, blockBytes_bytesBlock _ hlen]
  show laneWord (List.getD _ (4 * i + 0) 0) _ _ _ = w
  rw [hget 0 (by omega), hget 1 (by omega), hget 2 (by omega), hget 3 (by omega)]
  exact laneWord_laneBytes w

/-- The accumulator of R196 ends at 0 exactly when it started there and met only zero bytes. -/
theorem foldl_or_eq_zero (l : Bytes) (acc : Byte) :
    l.foldl (fun acc x => acc ||| x) acc = 0 ↔ acc = 0 ∧ ∀ x ∈ l, x = 0 := by
  induction l generalizing acc with
  | nil => simp
  | cons x l ih =>
    have hor : acc ||| x = 0 ↔ acc = 0 ∧ x = 0 := BitVec.or_eq_zero_iff
    simp only [List.foldl_cons, ih, hor, List.mem_cons, forall_eq_or_imp, and_assoc]

theorem xorBytes_eq_zeros_iff (a b : Bytes) (h : a.length = b.length) :
    (∀ x ∈ xorBytes a b, x = 0) ↔ a = b := by
  induction a generalizing b with
  | nil => cases b <;> simp at h ⊢
  | cons x a ih =>
    cases b with
    | nil => simp at h
    | cons y b =>
      have hx : x ^^^ y = 0 ↔ x = y := BitVec.xor_eq_zero_iff
      simp only [xorBytes_cons, List.mem_cons, forall_eq_or_imp, hx, List.cons.injEq]
      rw [ih b (by simpa using h)]

/-- R196: the comparison is equality of the two blocks. -/
theorem ctEq_iff (a b : Block) : ctEq a b = true ↔ a = b := by
  rw [ctEq, beq_iff_eq, foldl_or_eq_zero, xorBytes_eq_zeros_iff _ _ (by simp)]
  exact ⟨fun h => blockBytes_injective h.2, fun h => ⟨rfl, by rw [h]⟩⟩

@[simp] theorem ctEq_self (a : Block) : ctEq a a = true := (ctEq_iff a a).2 rfl

end Sys2Proof
end

