-- ==== Sys2Proof/Laws/Memory.lean ====
section
/-! SUPPORT. The laws of DMA memory: what a read returns after a write, and that every operation keeps the canonical form. -/

namespace Sys2Proof.Machine

theorem Memory.read_write_other (m : Memory) {a b : Nat} (v : Byte) (h : b ≠ a) :
    Memory.read (Memory.write m a v) b = Memory.read m b := by
  induction m with
  | nil => by_cases hv : v = unlisted <;> simp [Memory.write, Memory.read, hv, h]
  | cons c m ih =>
    obtain ⟨c, x⟩ := c
    simp only [Memory.write]
    split
    · split <;> simp [Memory.read, h]
    · split
      · next hc => subst hc; split <;> simp [Memory.read, h]
      · simp only [Memory.read, ih]

theorem Memory.wfFrom_mono {lo lo' : Nat} {m : Memory} (h : lo ≤ lo') (hm : Memory.wfFrom lo' m = true) :
    Memory.wfFrom lo m = true := by
  cases m with
  | nil => rfl
  | cons c m =>
    simp only [Memory.wfFrom, Bool.and_eq_true, decide_eq_true_eq] at hm ⊢
    exact ⟨⟨⟨by omega, hm.1.1.2⟩, hm.1.2⟩, hm.2⟩

/-- An address below every listed one reads as unlisted. -/
theorem Memory.read_below {lo a : Nat} {m : Memory} (hm : Memory.wfFrom lo m = true) (h : a < lo) :
    Memory.read m a = unlisted := by
  induction m generalizing lo with
  | nil => rfl
  | cons c m ih =>
    simp only [Memory.wfFrom, Bool.and_eq_true, decide_eq_true_eq] at hm
    have hne : a ≠ c.1 := by omega
    simp only [Memory.read, hne, if_false]
    exact ih hm.2 (by omega)

theorem Memory.wfFrom_write {lo a : Nat} {m : Memory} {v : Byte} (hm : Memory.wfFrom lo m = true)
    (hlo : lo ≤ a) (ha : a < dmaTop) : Memory.wfFrom lo (Memory.write m a v) = true := by
  induction m generalizing lo with
  | nil => by_cases hv : v = unlisted <;> simp [Memory.write, Memory.wfFrom, hv, hlo, ha]
  | cons c m ih =>
    obtain ⟨b, x⟩ := c
    have hm' := hm
    simp only [Memory.wfFrom, Bool.and_eq_true, decide_eq_true_eq] at hm'
    obtain ⟨⟨⟨hb, hbt⟩, hx⟩, hr⟩ := hm'
    simp only [Memory.write]
    split
    · next hab =>
      split
      · exact hm
      · next hv => simp [Memory.wfFrom, hlo, ha, hv, hbt, hx, hr]; omega
    · split
      · next hab =>
        subst hab
        split
        · exact Memory.wfFrom_mono (by omega) hr
        · next hv => simp [Memory.wfFrom, hlo, ha, hv, hr]
      · next hab hne => simp [Memory.wfFrom, hb, hbt, hx, ih hr (by omega)]

theorem Memory.wf_write {m : Memory} {a : Nat} {v : Byte} (hm : Memory.wf m = true) (ha : a < dmaTop) :
    Memory.wf (Memory.write m a v) = true :=
  Memory.wfFrom_write hm (Nat.zero_le a) ha

theorem Memory.read_write_same_from {lo : Nat} {m : Memory} (a : Nat) (v : Byte) (hm : Memory.wfFrom lo m = true) :
    Memory.read (Memory.write m a v) a = v := by
  induction m generalizing lo with
  | nil => by_cases hv : v = unlisted <;> simp [Memory.write, Memory.read, hv]
  | cons c m ih =>
    obtain ⟨b, x⟩ := c
    have hm' := hm
    simp only [Memory.wfFrom, Bool.and_eq_true, decide_eq_true_eq] at hm'
    obtain ⟨⟨⟨hb, hbt⟩, hx⟩, hr⟩ := hm'
    simp only [Memory.write]
    split
    · next hab =>
      split
      · next hv =>
        have hne : a ≠ b := by omega
        simp only [Memory.read, hne, if_false, hv]
        exact Memory.read_below hr (by omega)
      · simp [Memory.read]
    · split
      · next hab =>
        subst hab
        split
        · next hv => rw [hv]; exact Memory.read_below hr (by omega)
        · simp [Memory.read]
      · next hne => simp only [Memory.read, hne, if_false]; exact ih hr

theorem Memory.read_write_same {m : Memory} (a : Nat) (v : Byte) (hm : Memory.wf m = true) :
    Memory.read (Memory.write m a v) a = v :=
  Memory.read_write_same_from a v hm

@[simp] theorem Memory.writeBytes_nil (m : Memory) (a : Nat) : Memory.writeBytes m a [] = m := rfl

@[simp] theorem Memory.writeSome_nil (pick : Nat → Bool) (m : Memory) (a i : Nat) :
    Memory.writeSome pick m a i [] = m := rfl

theorem Memory.wf_writeBytes {m : Memory} {a : Nat} {bs : Bytes} (hm : Memory.wf m = true)
    (h : a + bs.length ≤ dmaTop) : Memory.wf (Memory.writeBytes m a bs) = true := by
  induction bs generalizing m a with
  | nil => exact hm
  | cons x xs ih =>
    simp only [List.length_cons] at h
    exact ih (Memory.wf_write hm (by omega)) (by omega)

theorem Memory.wf_writeSome {pick : Nat → Bool} {m : Memory} {a i : Nat} {bs : Bytes} (hm : Memory.wf m = true)
    (h : a + bs.length ≤ dmaTop) : Memory.wf (Memory.writeSome pick m a i bs) = true := by
  induction bs generalizing m a i with
  | nil => exact hm
  | cons x xs ih =>
    simp only [List.length_cons] at h
    refine ih ?_ (by omega)
    split
    · exact Memory.wf_write hm (by omega)
    · exact hm

/-- Outside the written range every byte reads as before. -/
theorem Memory.read_writeBytes_out {m : Memory} {a b : Nat} {bs : Bytes} (h : ¬ (a ≤ b ∧ b < a + bs.length)) :
    Memory.read (Memory.writeBytes m a bs) b = Memory.read m b := by
  induction bs generalizing m a with
  | nil => rfl
  | cons x xs ih =>
    simp only [List.length_cons] at h
    rw [Memory.writeBytes, ih (by omega), Memory.read_write_other m x (by omega)]

/-- Inside the written range the byte at `a + i` is byte `i` of the string. -/
theorem Memory.read_writeBytes_in {m : Memory} {a i : Nat} {bs : Bytes} (hm : Memory.wf m = true)
    (ht : a + bs.length ≤ dmaTop) (h : i < bs.length) :
    Memory.read (Memory.writeBytes m a bs) (a + i) = bs[i] := by
  induction bs generalizing m a i with
  | nil => simp at h
  | cons x xs ih =>
    simp only [List.length_cons] at ht h
    cases i with
    | zero =>
      rw [Memory.writeBytes, Memory.read_writeBytes_out (by omega), Nat.add_zero]
      exact Memory.read_write_same a x hm
    | succ i =>
      have hw : Memory.wf (Memory.write m a x) = true := Memory.wf_write hm (by omega)
      have := ih (i := i) hw (by omega : a + 1 + xs.length ≤ dmaTop) (by omega)
      rw [Memory.writeBytes, show a + (i + 1) = a + 1 + i by omega, this]
      rfl

theorem Memory.read_writeSome_out {pick : Nat → Bool} {m : Memory} {a b i : Nat} {bs : Bytes}
    (h : ¬ (a ≤ b ∧ b < a + bs.length)) :
    Memory.read (Memory.writeSome pick m a i bs) b = Memory.read m b := by
  induction bs generalizing m a i with
  | nil => rfl
  | cons x xs ih =>
    simp only [List.length_cons] at h
    rw [Memory.writeSome, ih (by omega)]
    split
    · exact Memory.read_write_other m x (by omega)
    · rfl

/-- Inside the range the byte at `a + j` is the new one where `pick` chose it, else the old one. -/
theorem Memory.read_writeSome_in {pick : Nat → Bool} {m : Memory} {a i j : Nat} {bs : Bytes} (hm : Memory.wf m = true)
    (ht : a + bs.length ≤ dmaTop) (h : j < bs.length) :
    Memory.read (Memory.writeSome pick m a i bs) (a + j) = if pick (i + j) then bs[j] else Memory.read m (a + j) := by
  induction bs generalizing m a i j with
  | nil => simp at h
  | cons x xs ih =>
    simp only [List.length_cons] at ht h
    have hw : Memory.wf (if pick i then Memory.write m a x else m) = true := by
      split
      · exact Memory.wf_write hm (by omega)
      · exact hm
    cases j with
    | zero =>
      rw [Memory.writeSome, Memory.read_writeSome_out (by omega)]
      by_cases hp : pick i
      · simp [hp, Memory.read_write_same a x hm]
      · simp [hp]
    | succ j =>
      have := ih (i := i + 1) (j := j) hw (by omega : a + 1 + xs.length ≤ dmaTop) (by omega)
      rw [Memory.writeSome, show a + (j + 1) = a + 1 + j by omega, this]
      have hi : i + 1 + j = i + (j + 1) := by omega
      rw [hi]
      split
      · rfl
      · split
        · exact Memory.read_write_other m x (by omega)
        · rfl

@[simp] theorem Memory.length_readBytes (m : Memory) (a n : Nat) : (Memory.readBytes m a n).length = n := by
  simp [Memory.readBytes]

@[simp] theorem Memory.length_readSpan (m : Memory) (x : Span) : (Memory.readSpan m x).length = x.len := by
  simp [Memory.readSpan]

theorem Memory.getElem_readBytes (m : Memory) (a n i : Nat) (h : i < (Memory.readBytes m a n).length) :
    (Memory.readBytes m a n)[i] = Memory.read m (a + i) := by
  simp [Memory.readBytes]

/-- Two memories that agree on a range read the same string there. -/
theorem Memory.readBytes_congr {m m' : Memory} {a n : Nat}
    (h : ∀ i, i < n → Memory.read m (a + i) = Memory.read m' (a + i)) :
    Memory.readBytes m a n = Memory.readBytes m' a n := by
  simp only [Memory.readBytes]
  refine List.map_congr_left fun i hi => h i ?_
  simpa using hi

/-- What was written is what is read back. -/
theorem Memory.readBytes_writeBytes {m : Memory} {a : Nat} {bs : Bytes} (hm : Memory.wf m = true)
    (ht : a + bs.length ≤ dmaTop) : Memory.readBytes (Memory.writeBytes m a bs) a bs.length = bs := by
  refine List.ext_getElem (by simp) fun i h1 h2 => ?_
  rw [Memory.getElem_readBytes, Memory.read_writeBytes_in hm ht h2]

theorem Memory.wf_replace {f : Nat → Byte} {m : Memory} {as : List Nat} (hm : Memory.wf m = true) :
    Memory.wf (Memory.replace f m as) = true := by
  induction as generalizing m with
  | nil => exact hm
  | cons a as ih =>
    rw [Memory.replace]
    split
    · next h => exact ih (Memory.wf_write hm h)
    · exact ih hm

/-- Every byte whose address is not listed reads as before. -/
theorem Memory.read_replace_out {f : Nat → Byte} {m : Memory} {as : List Nat} {b : Nat} (h : b ∉ as) :
    Memory.read (Memory.replace f m as) b = Memory.read m b := by
  induction as generalizing m with
  | nil => rfl
  | cons a as ih =>
    rw [List.mem_cons, not_or] at h
    rw [Memory.replace, ih h.2]
    split
    · exact Memory.read_write_other m _ h.1
    · rfl

/-- Every byte reads as before, or as `f` gives where its address is listed. -/
theorem Memory.read_replace_cases {f : Nat → Byte} {m : Memory} {as : List Nat} (hm : Memory.wf m = true) (b : Nat) :
    Memory.read (Memory.replace f m as) b = Memory.read m b ∨
      (b ∈ as ∧ Memory.read (Memory.replace f m as) b = f b) := by
  induction as generalizing m with
  | nil => exact .inl rfl
  | cons a as ih =>
    rw [Memory.replace]
    split
    · next h =>
      rcases ih (m := Memory.write m a (f a)) (Memory.wf_write hm h) with h1 | ⟨h1, h2⟩
      · by_cases hb : b = a
        · subst hb
          exact .inr ⟨List.mem_cons_self, by rw [h1, Memory.read_write_same b _ hm]⟩
        · exact .inl (by rw [h1, Memory.read_write_other m _ hb])
      · exact .inr ⟨List.mem_cons_of_mem _ h1, h2⟩
    · exact (ih hm).imp id fun ⟨h1, h2⟩ => ⟨List.mem_cons_of_mem _ h1, h2⟩

theorem Span.mem_addrs (x : Span) (a : Nat) : a ∈ x.addrs ↔ x.has a := by
  simp only [Span.addrs, List.mem_map, List.mem_range]
  exact ⟨fun ⟨i, hi, h⟩ => ⟨by omega, by omega⟩, fun h => ⟨a - x.base, by omega, by omega⟩⟩

theorem Memory.mem_copies (m : Memory) (x : Span) (c : Host.Cell) :
    c ∈ Memory.copies m x ↔ x.has c.1 ∧ c.2 = Memory.read m c.1 := by
  simp only [Memory.copies, List.mem_map, Span.mem_addrs]
  exact ⟨fun ⟨a, ha, h⟩ => h ▸ ⟨ha, rfl⟩, fun ⟨h1, h2⟩ => ⟨c.1, h1, Prod.ext rfl h2.symm⟩⟩

theorem Memory.wf_reset : Memory.wf State.reset.mem = true := rfl

end Sys2Proof.Machine
end

