-- ==== Sys2Proof/Laws/State.lean ====
section
/-! SUPPORT. One lemma per field per update of the state, and what BUSY is after each. -/

namespace Sys2Proof.Machine

variable (s : State)

/-! ### complete -/

@[simp] theorem State.complete_irqEn : (State.complete s).irqEn = s.irqEn := rfl
@[simp] theorem State.complete_done : (State.complete s).done = true := rfl
@[simp] theorem State.complete_err : (State.complete s).err = s.err := rfl
@[simp] theorem State.complete_errCode : (State.complete s).errCode = s.errCode := rfl
@[simp] theorem State.complete_keyValid : (State.complete s).keyValid = s.keyValid := rfl
@[simp] theorem State.complete_s2vActive : (State.complete s).s2vActive = s.s2vActive := rfl
@[simp] theorem State.complete_authOk : (State.complete s).authOk = s.authOk := rfl
@[simp] theorem State.complete_ovr : (State.complete s).ovr = s.ovr := rfl
@[simp] theorem State.complete_keylen : (State.complete s).keylen = s.keylen := rfl
@[simp] theorem State.complete_items : (State.complete s).items = s.items := rfl
@[simp] theorem State.complete_src : (State.complete s).src = s.src := rfl
@[simp] theorem State.complete_srclen : (State.complete s).srclen = s.srclen := rfl
@[simp] theorem State.complete_dst : (State.complete s).dst = s.dst := rfl
@[simp] theorem State.complete_aad : (State.complete s).aad = s.aad := rfl
@[simp] theorem State.complete_aadlen : (State.complete s).aadlen = s.aadlen := rfl
@[simp] theorem State.complete_outlen : (State.complete s).outlen = s.outlen := rfl
@[simp] theorem State.complete_keyW : (State.complete s).keyW = s.keyW := rfl
@[simp] theorem State.complete_v : (State.complete s).v = s.v := rfl
@[simp] theorem State.complete_ivref : (State.complete s).ivref = s.ivref := rfl
@[simp] theorem State.complete_k1 : (State.complete s).k1 = s.k1 := rfl
@[simp] theorem State.complete_k2 : (State.complete s).k2 = s.k2 := rfl
@[simp] theorem State.complete_d : (State.complete s).d = s.d := rfl
@[simp] theorem State.complete_stage : (State.complete s).stage = .idle := rfl
@[simp] theorem State.complete_srPending : (State.complete s).srPending = s.srPending := rfl
@[simp] theorem State.complete_mem : (State.complete s).mem = s.mem := rfl
@[simp] theorem State.complete_inbox : (State.complete s).inbox = s.inbox := rfl
@[simp] theorem State.complete_resp : (State.complete s).resp = s.resp := rfl
@[simp] theorem State.complete_busAnswers : (State.complete s).busAnswers = s.busAnswers := rfl
@[simp] theorem State.complete_devices : (State.complete s).devices = s.devices := rfl
@[simp] theorem State.complete_hostDirty : (State.complete s).hostDirty = s.hostDirty := rfl
@[simp] theorem State.complete_hostStale : (State.complete s).hostStale = s.hostStale := rfl
@[simp] theorem State.complete_raced : (State.complete s).raced = false := rfl
@[simp] theorem State.complete_draws : (State.complete s).draws = s.draws := rfl

/-! ### raise -/

@[simp] theorem State.raise_irqEn (e : ErrCode) : (State.raise e s).irqEn = s.irqEn := rfl
@[simp] theorem State.raise_done (e : ErrCode) : (State.raise e s).done = true := rfl
@[simp] theorem State.raise_err (e : ErrCode) : (State.raise e s).err = true := rfl
@[simp] theorem State.raise_errCode (e : ErrCode) : (State.raise e s).errCode = e := rfl
@[simp] theorem State.raise_keyValid (e : ErrCode) : (State.raise e s).keyValid = s.keyValid := rfl
@[simp] theorem State.raise_s2vActive (e : ErrCode) : (State.raise e s).s2vActive = s.s2vActive := rfl
@[simp] theorem State.raise_authOk (e : ErrCode) : (State.raise e s).authOk = s.authOk := rfl
@[simp] theorem State.raise_ovr (e : ErrCode) : (State.raise e s).ovr = s.ovr := rfl
@[simp] theorem State.raise_keylen (e : ErrCode) : (State.raise e s).keylen = s.keylen := rfl
@[simp] theorem State.raise_items (e : ErrCode) : (State.raise e s).items = s.items := rfl
@[simp] theorem State.raise_src (e : ErrCode) : (State.raise e s).src = s.src := rfl
@[simp] theorem State.raise_srclen (e : ErrCode) : (State.raise e s).srclen = s.srclen := rfl
@[simp] theorem State.raise_dst (e : ErrCode) : (State.raise e s).dst = s.dst := rfl
@[simp] theorem State.raise_aad (e : ErrCode) : (State.raise e s).aad = s.aad := rfl
@[simp] theorem State.raise_aadlen (e : ErrCode) : (State.raise e s).aadlen = s.aadlen := rfl
@[simp] theorem State.raise_outlen (e : ErrCode) : (State.raise e s).outlen = s.outlen := rfl
@[simp] theorem State.raise_keyW (e : ErrCode) : (State.raise e s).keyW = s.keyW := rfl
@[simp] theorem State.raise_v (e : ErrCode) : (State.raise e s).v = s.v := rfl
@[simp] theorem State.raise_ivref (e : ErrCode) : (State.raise e s).ivref = s.ivref := rfl
@[simp] theorem State.raise_k1 (e : ErrCode) : (State.raise e s).k1 = s.k1 := rfl
@[simp] theorem State.raise_k2 (e : ErrCode) : (State.raise e s).k2 = s.k2 := rfl
@[simp] theorem State.raise_d (e : ErrCode) : (State.raise e s).d = s.d := rfl
@[simp] theorem State.raise_stage (e : ErrCode) : (State.raise e s).stage = .idle := rfl
@[simp] theorem State.raise_srPending (e : ErrCode) : (State.raise e s).srPending = s.srPending := rfl
@[simp] theorem State.raise_mem (e : ErrCode) : (State.raise e s).mem = s.mem := rfl
@[simp] theorem State.raise_inbox (e : ErrCode) : (State.raise e s).inbox = s.inbox := rfl
@[simp] theorem State.raise_resp (e : ErrCode) : (State.raise e s).resp = s.resp := rfl
@[simp] theorem State.raise_busAnswers (e : ErrCode) : (State.raise e s).busAnswers = s.busAnswers := rfl
@[simp] theorem State.raise_devices (e : ErrCode) : (State.raise e s).devices = s.devices := rfl
@[simp] theorem State.raise_hostDirty (e : ErrCode) : (State.raise e s).hostDirty = s.hostDirty := rfl
@[simp] theorem State.raise_hostStale (e : ErrCode) : (State.raise e s).hostStale = s.hostStale := rfl
@[simp] theorem State.raise_raced (e : ErrCode) : (State.raise e s).raced = false := rfl
@[simp] theorem State.raise_draws (e : ErrCode) : (State.raise e s).draws = s.draws := rfl

/-! ### accept -/

@[simp] theorem State.accept_irqEn (w : Word) : (State.accept w s).irqEn = s.irqEn := rfl
@[simp] theorem State.accept_done (w : Word) : (State.accept w s).done = false := rfl
@[simp] theorem State.accept_err (w : Word) : (State.accept w s).err = false := rfl
@[simp] theorem State.accept_errCode (w : Word) : (State.accept w s).errCode = .none := rfl
@[simp] theorem State.accept_keyValid (w : Word) : (State.accept w s).keyValid = s.keyValid := rfl
@[simp] theorem State.accept_s2vActive (w : Word) : (State.accept w s).s2vActive = s.s2vActive := rfl
@[simp] theorem State.accept_authOk (w : Word) : (State.accept w s).authOk = false := rfl
@[simp] theorem State.accept_ovr (w : Word) : (State.accept w s).ovr = s.ovr := rfl
@[simp] theorem State.accept_keylen (w : Word) : (State.accept w s).keylen = s.keylen := rfl
@[simp] theorem State.accept_items (w : Word) : (State.accept w s).items = s.items := rfl
@[simp] theorem State.accept_src (w : Word) : (State.accept w s).src = s.src := rfl
@[simp] theorem State.accept_srclen (w : Word) : (State.accept w s).srclen = s.srclen := rfl
@[simp] theorem State.accept_dst (w : Word) : (State.accept w s).dst = s.dst := rfl
@[simp] theorem State.accept_aad (w : Word) : (State.accept w s).aad = s.aad := rfl
@[simp] theorem State.accept_aadlen (w : Word) : (State.accept w s).aadlen = s.aadlen := rfl
@[simp] theorem State.accept_outlen (w : Word) : (State.accept w s).outlen = 0 := rfl
@[simp] theorem State.accept_keyW (w : Word) : (State.accept w s).keyW = s.keyW := rfl
@[simp] theorem State.accept_v (w : Word) : (State.accept w s).v = s.v := rfl
@[simp] theorem State.accept_ivref (w : Word) : (State.accept w s).ivref = s.ivref := rfl
@[simp] theorem State.accept_k1 (w : Word) : (State.accept w s).k1 = s.k1 := rfl
@[simp] theorem State.accept_k2 (w : Word) : (State.accept w s).k2 = s.k2 := rfl
@[simp] theorem State.accept_d (w : Word) : (State.accept w s).d = s.d := rfl
@[simp] theorem State.accept_stage (w : Word) : (State.accept w s).stage = .run w := rfl
@[simp] theorem State.accept_srPending (w : Word) : (State.accept w s).srPending = s.srPending := rfl
@[simp] theorem State.accept_mem (w : Word) : (State.accept w s).mem = s.mem := rfl
@[simp] theorem State.accept_inbox (w : Word) : (State.accept w s).inbox = s.inbox := rfl
@[simp] theorem State.accept_resp (w : Word) : (State.accept w s).resp = s.resp := rfl
@[simp] theorem State.accept_busAnswers (w : Word) : (State.accept w s).busAnswers = s.busAnswers := rfl
@[simp] theorem State.accept_devices (w : Word) : (State.accept w s).devices = s.devices := rfl
@[simp] theorem State.accept_hostDirty (w : Word) : (State.accept w s).hostDirty = s.hostDirty := rfl
@[simp] theorem State.accept_hostStale (w : Word) : (State.accept w s).hostStale = s.hostStale := rfl
@[simp] theorem State.accept_raced (w : Word) : (State.accept w s).raced = false := rfl
@[simp] theorem State.accept_draws (w : Word) : (State.accept w s).draws = s.draws := rfl

/-! ### clearError -/

@[simp] theorem State.clearError_irqEn : (State.clearError s).irqEn = s.irqEn := rfl
@[simp] theorem State.clearError_done : (State.clearError s).done = s.done := rfl
@[simp] theorem State.clearError_err : (State.clearError s).err = false := rfl
@[simp] theorem State.clearError_errCode : (State.clearError s).errCode = .none := rfl
@[simp] theorem State.clearError_keyValid : (State.clearError s).keyValid = s.keyValid := rfl
@[simp] theorem State.clearError_s2vActive : (State.clearError s).s2vActive = s.s2vActive := rfl
@[simp] theorem State.clearError_authOk : (State.clearError s).authOk = s.authOk := rfl
@[simp] theorem State.clearError_ovr : (State.clearError s).ovr = s.ovr := rfl
@[simp] theorem State.clearError_keylen : (State.clearError s).keylen = s.keylen := rfl
@[simp] theorem State.clearError_items : (State.clearError s).items = s.items := rfl
@[simp] theorem State.clearError_src : (State.clearError s).src = s.src := rfl
@[simp] theorem State.clearError_srclen : (State.clearError s).srclen = s.srclen := rfl
@[simp] theorem State.clearError_dst : (State.clearError s).dst = s.dst := rfl
@[simp] theorem State.clearError_aad : (State.clearError s).aad = s.aad := rfl
@[simp] theorem State.clearError_aadlen : (State.clearError s).aadlen = s.aadlen := rfl
@[simp] theorem State.clearError_outlen : (State.clearError s).outlen = s.outlen := rfl
@[simp] theorem State.clearError_keyW : (State.clearError s).keyW = s.keyW := rfl
@[simp] theorem State.clearError_v : (State.clearError s).v = s.v := rfl
@[simp] theorem State.clearError_ivref : (State.clearError s).ivref = s.ivref := rfl
@[simp] theorem State.clearError_k1 : (State.clearError s).k1 = s.k1 := rfl
@[simp] theorem State.clearError_k2 : (State.clearError s).k2 = s.k2 := rfl
@[simp] theorem State.clearError_d : (State.clearError s).d = s.d := rfl
@[simp] theorem State.clearError_stage : (State.clearError s).stage = s.stage := rfl
@[simp] theorem State.clearError_srPending : (State.clearError s).srPending = s.srPending := rfl
@[simp] theorem State.clearError_mem : (State.clearError s).mem = s.mem := rfl
@[simp] theorem State.clearError_inbox : (State.clearError s).inbox = s.inbox := rfl
@[simp] theorem State.clearError_resp : (State.clearError s).resp = s.resp := rfl
@[simp] theorem State.clearError_busAnswers : (State.clearError s).busAnswers = s.busAnswers := rfl
@[simp] theorem State.clearError_devices : (State.clearError s).devices = s.devices := rfl
@[simp] theorem State.clearError_hostDirty : (State.clearError s).hostDirty = s.hostDirty := rfl
@[simp] theorem State.clearError_hostStale : (State.clearError s).hostStale = s.hostStale := rfl
@[simp] theorem State.clearError_raced : (State.clearError s).raced = s.raced := rfl
@[simp] theorem State.clearError_draws : (State.clearError s).draws = s.draws := rfl

/-! ### endSequence -/

@[simp] theorem State.endSequence_irqEn : (State.endSequence s).irqEn = s.irqEn := rfl
@[simp] theorem State.endSequence_done : (State.endSequence s).done = s.done := rfl
@[simp] theorem State.endSequence_err : (State.endSequence s).err = s.err := rfl
@[simp] theorem State.endSequence_errCode : (State.endSequence s).errCode = s.errCode := rfl
@[simp] theorem State.endSequence_keyValid : (State.endSequence s).keyValid = s.keyValid := rfl
@[simp] theorem State.endSequence_s2vActive : (State.endSequence s).s2vActive = false := rfl
@[simp] theorem State.endSequence_authOk : (State.endSequence s).authOk = s.authOk := rfl
@[simp] theorem State.endSequence_ovr : (State.endSequence s).ovr = s.ovr := rfl
@[simp] theorem State.endSequence_keylen : (State.endSequence s).keylen = s.keylen := rfl
@[simp] theorem State.endSequence_items : (State.endSequence s).items = s.items := rfl
@[simp] theorem State.endSequence_src : (State.endSequence s).src = s.src := rfl
@[simp] theorem State.endSequence_srclen : (State.endSequence s).srclen = s.srclen := rfl
@[simp] theorem State.endSequence_dst : (State.endSequence s).dst = s.dst := rfl
@[simp] theorem State.endSequence_aad : (State.endSequence s).aad = s.aad := rfl
@[simp] theorem State.endSequence_aadlen : (State.endSequence s).aadlen = s.aadlen := rfl
@[simp] theorem State.endSequence_outlen : (State.endSequence s).outlen = s.outlen := rfl
@[simp] theorem State.endSequence_keyW : (State.endSequence s).keyW = s.keyW := rfl
@[simp] theorem State.endSequence_v : (State.endSequence s).v = s.v := rfl
@[simp] theorem State.endSequence_ivref : (State.endSequence s).ivref = s.ivref := rfl
@[simp] theorem State.endSequence_k1 : (State.endSequence s).k1 = s.k1 := rfl
@[simp] theorem State.endSequence_k2 : (State.endSequence s).k2 = s.k2 := rfl
@[simp] theorem State.endSequence_d : (State.endSequence s).d = 0 := rfl
@[simp] theorem State.endSequence_stage : (State.endSequence s).stage = s.stage := rfl
@[simp] theorem State.endSequence_srPending : (State.endSequence s).srPending = s.srPending := rfl
@[simp] theorem State.endSequence_mem : (State.endSequence s).mem = s.mem := rfl
@[simp] theorem State.endSequence_inbox : (State.endSequence s).inbox = s.inbox := rfl
@[simp] theorem State.endSequence_resp : (State.endSequence s).resp = s.resp := rfl
@[simp] theorem State.endSequence_busAnswers : (State.endSequence s).busAnswers = s.busAnswers := rfl
@[simp] theorem State.endSequence_devices : (State.endSequence s).devices = s.devices := rfl
@[simp] theorem State.endSequence_hostDirty : (State.endSequence s).hostDirty = s.hostDirty := rfl
@[simp] theorem State.endSequence_hostStale : (State.endSequence s).hostStale = s.hostStale := rfl
@[simp] theorem State.endSequence_raced : (State.endSequence s).raced = s.raced := rfl
@[simp] theorem State.endSequence_draws : (State.endSequence s).draws = s.draws := rfl

/-! ### busError -/

@[simp] theorem State.busError_irqEn : (State.busError s).irqEn = s.irqEn := rfl
@[simp] theorem State.busError_done : (State.busError s).done = true := rfl
@[simp] theorem State.busError_err : (State.busError s).err = true := rfl
@[simp] theorem State.busError_errCode : (State.busError s).errCode = .busError := rfl
@[simp] theorem State.busError_keyValid : (State.busError s).keyValid = s.keyValid := rfl
@[simp] theorem State.busError_s2vActive : (State.busError s).s2vActive = false := rfl
@[simp] theorem State.busError_authOk : (State.busError s).authOk = s.authOk := rfl
@[simp] theorem State.busError_ovr : (State.busError s).ovr = s.ovr := rfl
@[simp] theorem State.busError_keylen : (State.busError s).keylen = s.keylen := rfl
@[simp] theorem State.busError_items : (State.busError s).items = s.items := rfl
@[simp] theorem State.busError_src : (State.busError s).src = s.src := rfl
@[simp] theorem State.busError_srclen : (State.busError s).srclen = s.srclen := rfl
@[simp] theorem State.busError_dst : (State.busError s).dst = s.dst := rfl
@[simp] theorem State.busError_aad : (State.busError s).aad = s.aad := rfl
@[simp] theorem State.busError_aadlen : (State.busError s).aadlen = s.aadlen := rfl
@[simp] theorem State.busError_outlen : (State.busError s).outlen = s.outlen := rfl
@[simp] theorem State.busError_keyW : (State.busError s).keyW = s.keyW := rfl
@[simp] theorem State.busError_v : (State.busError s).v = s.v := rfl
@[simp] theorem State.busError_ivref : (State.busError s).ivref = s.ivref := rfl
@[simp] theorem State.busError_k1 : (State.busError s).k1 = s.k1 := rfl
@[simp] theorem State.busError_k2 : (State.busError s).k2 = s.k2 := rfl
@[simp] theorem State.busError_d : (State.busError s).d = 0 := rfl
@[simp] theorem State.busError_stage : (State.busError s).stage = .idle := rfl
@[simp] theorem State.busError_srPending : (State.busError s).srPending = s.srPending := rfl
@[simp] theorem State.busError_mem : (State.busError s).mem = s.mem := rfl
@[simp] theorem State.busError_inbox : (State.busError s).inbox = s.inbox := rfl
@[simp] theorem State.busError_resp : (State.busError s).resp = s.resp := rfl
@[simp] theorem State.busError_busAnswers : (State.busError s).busAnswers = s.busAnswers := rfl
@[simp] theorem State.busError_devices : (State.busError s).devices = s.devices := rfl
@[simp] theorem State.busError_hostDirty : (State.busError s).hostDirty = s.hostDirty := rfl
@[simp] theorem State.busError_hostStale : (State.busError s).hostStale = s.hostStale := rfl
@[simp] theorem State.busError_raced : (State.busError s).raced = false := rfl
@[simp] theorem State.busError_draws : (State.busError s).draws = s.draws := rfl

/-! ### consume -/

@[simp] theorem State.consume_irqEn (l : List Nat) : (State.consume l s).irqEn = s.irqEn := rfl
@[simp] theorem State.consume_done (l : List Nat) : (State.consume l s).done = s.done := rfl
@[simp] theorem State.consume_err (l : List Nat) : (State.consume l s).err = s.err := rfl
@[simp] theorem State.consume_errCode (l : List Nat) : (State.consume l s).errCode = s.errCode := rfl
@[simp] theorem State.consume_keyValid (l : List Nat) : (State.consume l s).keyValid = s.keyValid := rfl
@[simp] theorem State.consume_s2vActive (l : List Nat) : (State.consume l s).s2vActive = s.s2vActive := rfl
@[simp] theorem State.consume_authOk (l : List Nat) : (State.consume l s).authOk = s.authOk := rfl
@[simp] theorem State.consume_ovr (l : List Nat) : (State.consume l s).ovr = s.ovr := rfl
@[simp] theorem State.consume_keylen (l : List Nat) : (State.consume l s).keylen = s.keylen := rfl
@[simp] theorem State.consume_items (l : List Nat) : (State.consume l s).items = s.items := rfl
@[simp] theorem State.consume_src (l : List Nat) : (State.consume l s).src = s.src := rfl
@[simp] theorem State.consume_srclen (l : List Nat) : (State.consume l s).srclen = s.srclen := rfl
@[simp] theorem State.consume_dst (l : List Nat) : (State.consume l s).dst = s.dst := rfl
@[simp] theorem State.consume_aad (l : List Nat) : (State.consume l s).aad = s.aad := rfl
@[simp] theorem State.consume_aadlen (l : List Nat) : (State.consume l s).aadlen = s.aadlen := rfl
@[simp] theorem State.consume_outlen (l : List Nat) : (State.consume l s).outlen = s.outlen := rfl
@[simp] theorem State.consume_keyW (l : List Nat) : (State.consume l s).keyW = s.keyW := rfl
@[simp] theorem State.consume_v (l : List Nat) : (State.consume l s).v = s.v := rfl
@[simp] theorem State.consume_ivref (l : List Nat) : (State.consume l s).ivref = s.ivref := rfl
@[simp] theorem State.consume_k1 (l : List Nat) : (State.consume l s).k1 = s.k1 := rfl
@[simp] theorem State.consume_k2 (l : List Nat) : (State.consume l s).k2 = s.k2 := rfl
@[simp] theorem State.consume_d (l : List Nat) : (State.consume l s).d = s.d := rfl
@[simp] theorem State.consume_stage (l : List Nat) : (State.consume l s).stage = s.stage := rfl
@[simp] theorem State.consume_srPending (l : List Nat) : (State.consume l s).srPending = s.srPending := rfl
@[simp] theorem State.consume_mem (l : List Nat) : (State.consume l s).mem = s.mem := rfl
@[simp] theorem State.consume_inbox (l : List Nat) : (State.consume l s).inbox = s.inbox := rfl
@[simp] theorem State.consume_resp (l : List Nat) : (State.consume l s).resp = s.resp := rfl
@[simp] theorem State.consume_busAnswers (l : List Nat) : (State.consume l s).busAnswers = busRest l s.busAnswers := rfl
@[simp] theorem State.consume_devices (l : List Nat) : (State.consume l s).devices = s.devices := rfl
@[simp] theorem State.consume_hostDirty (l : List Nat) : (State.consume l s).hostDirty = s.hostDirty := rfl
@[simp] theorem State.consume_hostStale (l : List Nat) : (State.consume l s).hostStale = s.hostStale := rfl
@[simp] theorem State.consume_raced (l : List Nat) : (State.consume l s).raced = s.raced := rfl
@[simp] theorem State.consume_draws (l : List Nat) : (State.consume l s).draws = s.draws := rfl

/-! ### dmaWrite -/

@[simp] theorem State.dmaWrite_irqEn (a : Nat) (bs : Bytes) : (State.dmaWrite a bs s).irqEn = s.irqEn := rfl
@[simp] theorem State.dmaWrite_done (a : Nat) (bs : Bytes) : (State.dmaWrite a bs s).done = s.done := rfl
@[simp] theorem State.dmaWrite_err (a : Nat) (bs : Bytes) : (State.dmaWrite a bs s).err = s.err := rfl
@[simp] theorem State.dmaWrite_errCode (a : Nat) (bs : Bytes) : (State.dmaWrite a bs s).errCode = s.errCode := rfl
@[simp] theorem State.dmaWrite_keyValid (a : Nat) (bs : Bytes) : (State.dmaWrite a bs s).keyValid = s.keyValid := rfl
@[simp] theorem State.dmaWrite_s2vActive (a : Nat) (bs : Bytes) : (State.dmaWrite a bs s).s2vActive = s.s2vActive := rfl
@[simp] theorem State.dmaWrite_authOk (a : Nat) (bs : Bytes) : (State.dmaWrite a bs s).authOk = s.authOk := rfl
@[simp] theorem State.dmaWrite_ovr (a : Nat) (bs : Bytes) : (State.dmaWrite a bs s).ovr = s.ovr := rfl
@[simp] theorem State.dmaWrite_keylen (a : Nat) (bs : Bytes) : (State.dmaWrite a bs s).keylen = s.keylen := rfl
@[simp] theorem State.dmaWrite_items (a : Nat) (bs : Bytes) : (State.dmaWrite a bs s).items = s.items := rfl
@[simp] theorem State.dmaWrite_src (a : Nat) (bs : Bytes) : (State.dmaWrite a bs s).src = s.src := rfl
@[simp] theorem State.dmaWrite_srclen (a : Nat) (bs : Bytes) : (State.dmaWrite a bs s).srclen = s.srclen := rfl
@[simp] theorem State.dmaWrite_dst (a : Nat) (bs : Bytes) : (State.dmaWrite a bs s).dst = s.dst := rfl
@[simp] theorem State.dmaWrite_aad (a : Nat) (bs : Bytes) : (State.dmaWrite a bs s).aad = s.aad := rfl
@[simp] theorem State.dmaWrite_aadlen (a : Nat) (bs : Bytes) : (State.dmaWrite a bs s).aadlen = s.aadlen := rfl
@[simp] theorem State.dmaWrite_outlen (a : Nat) (bs : Bytes) : (State.dmaWrite a bs s).outlen = s.outlen := rfl
@[simp] theorem State.dmaWrite_keyW (a : Nat) (bs : Bytes) : (State.dmaWrite a bs s).keyW = s.keyW := rfl
@[simp] theorem State.dmaWrite_v (a : Nat) (bs : Bytes) : (State.dmaWrite a bs s).v = s.v := rfl
@[simp] theorem State.dmaWrite_ivref (a : Nat) (bs : Bytes) : (State.dmaWrite a bs s).ivref = s.ivref := rfl
@[simp] theorem State.dmaWrite_k1 (a : Nat) (bs : Bytes) : (State.dmaWrite a bs s).k1 = s.k1 := rfl
@[simp] theorem State.dmaWrite_k2 (a : Nat) (bs : Bytes) : (State.dmaWrite a bs s).k2 = s.k2 := rfl
@[simp] theorem State.dmaWrite_d (a : Nat) (bs : Bytes) : (State.dmaWrite a bs s).d = s.d := rfl
@[simp] theorem State.dmaWrite_stage (a : Nat) (bs : Bytes) : (State.dmaWrite a bs s).stage = s.stage := rfl
@[simp] theorem State.dmaWrite_srPending (a : Nat) (bs : Bytes) : (State.dmaWrite a bs s).srPending = s.srPending := rfl
@[simp] theorem State.dmaWrite_mem (a : Nat) (bs : Bytes) : (State.dmaWrite a bs s).mem = Memory.writeBytes s.mem a bs := rfl
@[simp] theorem State.dmaWrite_inbox (a : Nat) (bs : Bytes) : (State.dmaWrite a bs s).inbox = s.inbox := rfl
@[simp] theorem State.dmaWrite_resp (a : Nat) (bs : Bytes) : (State.dmaWrite a bs s).resp = s.resp := rfl
@[simp] theorem State.dmaWrite_busAnswers (a : Nat) (bs : Bytes) : (State.dmaWrite a bs s).busAnswers = s.busAnswers := rfl
@[simp] theorem State.dmaWrite_devices (a : Nat) (bs : Bytes) : (State.dmaWrite a bs s).devices = s.devices := rfl
@[simp] theorem State.dmaWrite_hostDirty (a : Nat) (bs : Bytes) : (State.dmaWrite a bs s).hostDirty = s.hostDirty := rfl
@[simp] theorem State.dmaWrite_hostStale (a : Nat) (bs : Bytes) : (State.dmaWrite a bs s).hostStale = Memory.copies s.mem ⟨a, bs.length⟩ ++ s.hostStale := rfl
@[simp] theorem State.dmaWrite_raced (a : Nat) (bs : Bytes) : (State.dmaWrite a bs s).raced = s.raced := rfl
@[simp] theorem State.dmaWrite_draws (a : Nat) (bs : Bytes) : (State.dmaWrite a bs s).draws = s.draws := rfl

/-! ### partialWrite -/

@[simp] theorem State.partialWrite_irqEn (a : Nat) (bs : Bytes) : (State.partialWrite a bs s).irqEn = s.irqEn := rfl
@[simp] theorem State.partialWrite_done (a : Nat) (bs : Bytes) : (State.partialWrite a bs s).done = s.done := rfl
@[simp] theorem State.partialWrite_err (a : Nat) (bs : Bytes) : (State.partialWrite a bs s).err = s.err := rfl
@[simp] theorem State.partialWrite_errCode (a : Nat) (bs : Bytes) : (State.partialWrite a bs s).errCode = s.errCode := rfl
@[simp] theorem State.partialWrite_keyValid (a : Nat) (bs : Bytes) : (State.partialWrite a bs s).keyValid = s.keyValid := rfl
@[simp] theorem State.partialWrite_s2vActive (a : Nat) (bs : Bytes) : (State.partialWrite a bs s).s2vActive = s.s2vActive := rfl
@[simp] theorem State.partialWrite_authOk (a : Nat) (bs : Bytes) : (State.partialWrite a bs s).authOk = s.authOk := rfl
@[simp] theorem State.partialWrite_ovr (a : Nat) (bs : Bytes) : (State.partialWrite a bs s).ovr = s.ovr := rfl
@[simp] theorem State.partialWrite_keylen (a : Nat) (bs : Bytes) : (State.partialWrite a bs s).keylen = s.keylen := rfl
@[simp] theorem State.partialWrite_items (a : Nat) (bs : Bytes) : (State.partialWrite a bs s).items = s.items := rfl
@[simp] theorem State.partialWrite_src (a : Nat) (bs : Bytes) : (State.partialWrite a bs s).src = s.src := rfl
@[simp] theorem State.partialWrite_srclen (a : Nat) (bs : Bytes) : (State.partialWrite a bs s).srclen = s.srclen := rfl
@[simp] theorem State.partialWrite_dst (a : Nat) (bs : Bytes) : (State.partialWrite a bs s).dst = s.dst := rfl
@[simp] theorem State.partialWrite_aad (a : Nat) (bs : Bytes) : (State.partialWrite a bs s).aad = s.aad := rfl
@[simp] theorem State.partialWrite_aadlen (a : Nat) (bs : Bytes) : (State.partialWrite a bs s).aadlen = s.aadlen := rfl
@[simp] theorem State.partialWrite_outlen (a : Nat) (bs : Bytes) : (State.partialWrite a bs s).outlen = s.outlen := rfl
@[simp] theorem State.partialWrite_keyW (a : Nat) (bs : Bytes) : (State.partialWrite a bs s).keyW = s.keyW := rfl
@[simp] theorem State.partialWrite_v (a : Nat) (bs : Bytes) : (State.partialWrite a bs s).v = s.v := rfl
@[simp] theorem State.partialWrite_ivref (a : Nat) (bs : Bytes) : (State.partialWrite a bs s).ivref = s.ivref := rfl
@[simp] theorem State.partialWrite_k1 (a : Nat) (bs : Bytes) : (State.partialWrite a bs s).k1 = s.k1 := rfl
@[simp] theorem State.partialWrite_k2 (a : Nat) (bs : Bytes) : (State.partialWrite a bs s).k2 = s.k2 := rfl
@[simp] theorem State.partialWrite_d (a : Nat) (bs : Bytes) : (State.partialWrite a bs s).d = s.d := rfl
@[simp] theorem State.partialWrite_stage (a : Nat) (bs : Bytes) : (State.partialWrite a bs s).stage = s.stage := rfl
@[simp] theorem State.partialWrite_srPending (a : Nat) (bs : Bytes) : (State.partialWrite a bs s).srPending = s.srPending := rfl
@[simp] theorem State.partialWrite_mem (a : Nat) (bs : Bytes) : (State.partialWrite a bs s).mem = Memory.writeSome (Config.freeBool s.draws) s.mem a 0 bs := rfl
@[simp] theorem State.partialWrite_inbox (a : Nat) (bs : Bytes) : (State.partialWrite a bs s).inbox = s.inbox := rfl
@[simp] theorem State.partialWrite_resp (a : Nat) (bs : Bytes) : (State.partialWrite a bs s).resp = s.resp := rfl
@[simp] theorem State.partialWrite_busAnswers (a : Nat) (bs : Bytes) : (State.partialWrite a bs s).busAnswers = s.busAnswers := rfl
@[simp] theorem State.partialWrite_devices (a : Nat) (bs : Bytes) : (State.partialWrite a bs s).devices = s.devices := rfl
@[simp] theorem State.partialWrite_hostDirty (a : Nat) (bs : Bytes) : (State.partialWrite a bs s).hostDirty = s.hostDirty := rfl
@[simp] theorem State.partialWrite_hostStale (a : Nat) (bs : Bytes) : (State.partialWrite a bs s).hostStale = Memory.copies s.mem ⟨a, bs.length⟩ ++ s.hostStale := rfl
@[simp] theorem State.partialWrite_raced (a : Nat) (bs : Bytes) : (State.partialWrite a bs s).raced = s.raced := rfl
@[simp] theorem State.partialWrite_draws (a : Nat) (bs : Bytes) : (State.partialWrite a bs s).draws = s.draws + 1 := rfl

/-! ### raceResult -/

@[simp] theorem State.raceResult_irqEn (x : Span) : (State.raceResult x s).irqEn = s.irqEn := rfl
@[simp] theorem State.raceResult_done (x : Span) : (State.raceResult x s).done = true := rfl
@[simp] theorem State.raceResult_err (x : Span) : (State.raceResult x s).err = decide (ErrCode.ofNumber (Config.freeErr s.draws) ≠ .none) := rfl
@[simp] theorem State.raceResult_errCode (x : Span) : (State.raceResult x s).errCode = ErrCode.ofNumber (Config.freeErr s.draws) := rfl
@[simp] theorem State.raceResult_keyValid (x : Span) : (State.raceResult x s).keyValid = s.keyValid := rfl
@[simp] theorem State.raceResult_s2vActive (x : Span) : (State.raceResult x s).s2vActive = s.s2vActive := rfl
@[simp] theorem State.raceResult_authOk (x : Span) : (State.raceResult x s).authOk = Config.freeBool s.draws 0 := rfl
@[simp] theorem State.raceResult_ovr (x : Span) : (State.raceResult x s).ovr = s.ovr := rfl
@[simp] theorem State.raceResult_keylen (x : Span) : (State.raceResult x s).keylen = s.keylen := rfl
@[simp] theorem State.raceResult_items (x : Span) : (State.raceResult x s).items = s.items := rfl
@[simp] theorem State.raceResult_src (x : Span) : (State.raceResult x s).src = s.src := rfl
@[simp] theorem State.raceResult_srclen (x : Span) : (State.raceResult x s).srclen = s.srclen := rfl
@[simp] theorem State.raceResult_dst (x : Span) : (State.raceResult x s).dst = s.dst := rfl
@[simp] theorem State.raceResult_aad (x : Span) : (State.raceResult x s).aad = s.aad := rfl
@[simp] theorem State.raceResult_aadlen (x : Span) : (State.raceResult x s).aadlen = s.aadlen := rfl
@[simp] theorem State.raceResult_outlen (x : Span) : (State.raceResult x s).outlen = Config.freeLen s.draws := rfl
@[simp] theorem State.raceResult_keyW (x : Span) : (State.raceResult x s).keyW = s.keyW := rfl
@[simp] theorem State.raceResult_v (x : Span) : (State.raceResult x s).v = Config.freeV s.draws := rfl
@[simp] theorem State.raceResult_ivref (x : Span) : (State.raceResult x s).ivref = s.ivref := rfl
@[simp] theorem State.raceResult_k1 (x : Span) : (State.raceResult x s).k1 = s.k1 := rfl
@[simp] theorem State.raceResult_k2 (x : Span) : (State.raceResult x s).k2 = s.k2 := rfl
@[simp] theorem State.raceResult_d (x : Span) : (State.raceResult x s).d = s.d := rfl
@[simp] theorem State.raceResult_stage (x : Span) : (State.raceResult x s).stage = .idle := rfl
@[simp] theorem State.raceResult_srPending (x : Span) : (State.raceResult x s).srPending = s.srPending := rfl
@[simp] theorem State.raceResult_mem (x : Span) : (State.raceResult x s).mem = Memory.writeBytes s.mem x.base (freeBytes s.draws x.len) := rfl
@[simp] theorem State.raceResult_inbox (x : Span) : (State.raceResult x s).inbox = s.inbox := rfl
@[simp] theorem State.raceResult_resp (x : Span) : (State.raceResult x s).resp = s.resp := rfl
@[simp] theorem State.raceResult_busAnswers (x : Span) : (State.raceResult x s).busAnswers = s.busAnswers := rfl
@[simp] theorem State.raceResult_devices (x : Span) : (State.raceResult x s).devices = s.devices := rfl
@[simp] theorem State.raceResult_hostDirty (x : Span) : (State.raceResult x s).hostDirty = (s.addExposed x).hostDirty := rfl
@[simp] theorem State.raceResult_hostStale (x : Span) : (State.raceResult x s).hostStale = Memory.copies s.mem x ++ s.hostStale := rfl
@[simp] theorem State.raceResult_raced (x : Span) : (State.raceResult x s).raced = false := rfl
@[simp] theorem State.raceResult_draws (x : Span) : (State.raceResult x s).draws = s.draws + 1 := rfl

/-! ### dropWrite -/

@[simp] theorem State.dropWrite_irqEn : (State.dropWrite s).irqEn = s.irqEn := rfl
@[simp] theorem State.dropWrite_done : (State.dropWrite s).done = s.done := rfl
@[simp] theorem State.dropWrite_err : (State.dropWrite s).err = s.err := rfl
@[simp] theorem State.dropWrite_errCode : (State.dropWrite s).errCode = s.errCode := rfl
@[simp] theorem State.dropWrite_keyValid : (State.dropWrite s).keyValid = s.keyValid := rfl
@[simp] theorem State.dropWrite_s2vActive : (State.dropWrite s).s2vActive = s.s2vActive := rfl
@[simp] theorem State.dropWrite_authOk : (State.dropWrite s).authOk = s.authOk := rfl
@[simp] theorem State.dropWrite_ovr : (State.dropWrite s).ovr = true := rfl
@[simp] theorem State.dropWrite_keylen : (State.dropWrite s).keylen = s.keylen := rfl
@[simp] theorem State.dropWrite_items : (State.dropWrite s).items = s.items := rfl
@[simp] theorem State.dropWrite_src : (State.dropWrite s).src = s.src := rfl
@[simp] theorem State.dropWrite_srclen : (State.dropWrite s).srclen = s.srclen := rfl
@[simp] theorem State.dropWrite_dst : (State.dropWrite s).dst = s.dst := rfl
@[simp] theorem State.dropWrite_aad : (State.dropWrite s).aad = s.aad := rfl
@[simp] theorem State.dropWrite_aadlen : (State.dropWrite s).aadlen = s.aadlen := rfl
@[simp] theorem State.dropWrite_outlen : (State.dropWrite s).outlen = s.outlen := rfl
@[simp] theorem State.dropWrite_keyW : (State.dropWrite s).keyW = s.keyW := rfl
@[simp] theorem State.dropWrite_v : (State.dropWrite s).v = s.v := rfl
@[simp] theorem State.dropWrite_ivref : (State.dropWrite s).ivref = s.ivref := rfl
@[simp] theorem State.dropWrite_k1 : (State.dropWrite s).k1 = s.k1 := rfl
@[simp] theorem State.dropWrite_k2 : (State.dropWrite s).k2 = s.k2 := rfl
@[simp] theorem State.dropWrite_d : (State.dropWrite s).d = s.d := rfl
@[simp] theorem State.dropWrite_stage : (State.dropWrite s).stage = s.stage := rfl
@[simp] theorem State.dropWrite_srPending : (State.dropWrite s).srPending = s.srPending := rfl
@[simp] theorem State.dropWrite_mem : (State.dropWrite s).mem = s.mem := rfl
@[simp] theorem State.dropWrite_inbox : (State.dropWrite s).inbox = s.inbox := rfl
@[simp] theorem State.dropWrite_resp : (State.dropWrite s).resp = s.resp := rfl
@[simp] theorem State.dropWrite_busAnswers : (State.dropWrite s).busAnswers = s.busAnswers := rfl
@[simp] theorem State.dropWrite_devices : (State.dropWrite s).devices = s.devices := rfl
@[simp] theorem State.dropWrite_hostDirty : (State.dropWrite s).hostDirty = s.hostDirty := rfl
@[simp] theorem State.dropWrite_hostStale : (State.dropWrite s).hostStale = s.hostStale := rfl
@[simp] theorem State.dropWrite_raced : (State.dropWrite s).raced = s.raced := rfl
@[simp] theorem State.dropWrite_draws : (State.dropWrite s).draws = s.draws := rfl

/-! ### resetEngine -/

@[simp] theorem State.resetEngine_irqEn : (State.resetEngine s).irqEn = State.reset.irqEn := rfl
@[simp] theorem State.resetEngine_done : (State.resetEngine s).done = State.reset.done := rfl
@[simp] theorem State.resetEngine_err : (State.resetEngine s).err = State.reset.err := rfl
@[simp] theorem State.resetEngine_errCode : (State.resetEngine s).errCode = State.reset.errCode := rfl
@[simp] theorem State.resetEngine_keyValid : (State.resetEngine s).keyValid = State.reset.keyValid := rfl
@[simp] theorem State.resetEngine_s2vActive : (State.resetEngine s).s2vActive = State.reset.s2vActive := rfl
@[simp] theorem State.resetEngine_authOk : (State.resetEngine s).authOk = State.reset.authOk := rfl
@[simp] theorem State.resetEngine_ovr : (State.resetEngine s).ovr = State.reset.ovr := rfl
@[simp] theorem State.resetEngine_keylen : (State.resetEngine s).keylen = State.reset.keylen := rfl
@[simp] theorem State.resetEngine_items : (State.resetEngine s).items = State.reset.items := rfl
@[simp] theorem State.resetEngine_src : (State.resetEngine s).src = State.reset.src := rfl
@[simp] theorem State.resetEngine_srclen : (State.resetEngine s).srclen = State.reset.srclen := rfl
@[simp] theorem State.resetEngine_dst : (State.resetEngine s).dst = State.reset.dst := rfl
@[simp] theorem State.resetEngine_aad : (State.resetEngine s).aad = State.reset.aad := rfl
@[simp] theorem State.resetEngine_aadlen : (State.resetEngine s).aadlen = State.reset.aadlen := rfl
@[simp] theorem State.resetEngine_outlen : (State.resetEngine s).outlen = State.reset.outlen := rfl
@[simp] theorem State.resetEngine_keyW : (State.resetEngine s).keyW = State.reset.keyW := rfl
@[simp] theorem State.resetEngine_v : (State.resetEngine s).v = State.reset.v := rfl
@[simp] theorem State.resetEngine_ivref : (State.resetEngine s).ivref = State.reset.ivref := rfl
@[simp] theorem State.resetEngine_k1 : (State.resetEngine s).k1 = State.reset.k1 := rfl
@[simp] theorem State.resetEngine_k2 : (State.resetEngine s).k2 = State.reset.k2 := rfl
@[simp] theorem State.resetEngine_d : (State.resetEngine s).d = State.reset.d := rfl
@[simp] theorem State.resetEngine_stage : (State.resetEngine s).stage = State.reset.stage := rfl
@[simp] theorem State.resetEngine_srPending : (State.resetEngine s).srPending = State.reset.srPending := rfl
@[simp] theorem State.resetEngine_mem : (State.resetEngine s).mem = s.mem := rfl
@[simp] theorem State.resetEngine_inbox : (State.resetEngine s).inbox = s.inbox := rfl
@[simp] theorem State.resetEngine_resp : (State.resetEngine s).resp = s.resp := rfl
@[simp] theorem State.resetEngine_busAnswers : (State.resetEngine s).busAnswers = s.busAnswers := rfl
@[simp] theorem State.resetEngine_devices : (State.resetEngine s).devices = s.devices := rfl
@[simp] theorem State.resetEngine_hostDirty : (State.resetEngine s).hostDirty = s.hostDirty := rfl
@[simp] theorem State.resetEngine_hostStale : (State.resetEngine s).hostStale = s.hostStale := rfl
@[simp] theorem State.resetEngine_raced : (State.resetEngine s).raced = State.reset.raced := rfl
@[simp] theorem State.resetEngine_draws : (State.resetEngine s).draws = s.draws := rfl

/-! ### BUSY (R31) -/

theorem State.busy_eq_false_iff : s.busy = false ↔ s.stage = .idle := by
  unfold State.busy
  cases s.stage <;> simp

theorem State.busy_eq_true_iff : s.busy = true ↔ ∃ w, s.stage = .run w := by
  unfold State.busy
  cases s.stage <;> simp

theorem State.busy_congr {s t : State} (h : s.stage = t.stage) : s.busy = t.busy := by
  unfold State.busy
  rw [h]

@[simp] theorem State.complete_busy : s.complete.busy = false := rfl
@[simp] theorem State.raise_busy (e : ErrCode) : (s.raise e).busy = false := rfl
@[simp] theorem State.accept_busy (w : Word) : (s.accept w).busy = true := rfl
@[simp] theorem State.busError_busy : s.busError.busy = false := rfl
@[simp] theorem State.raceResult_busy (x : Span) : (s.raceResult x).busy = false := rfl
@[simp] theorem State.resetEngine_busy : s.resetEngine.busy = false := rfl
@[simp] theorem State.endSequence_busy : s.endSequence.busy = s.busy := rfl
@[simp] theorem State.consume_busy (l : List Nat) : (s.consume l).busy = s.busy := rfl
@[simp] theorem State.dropWrite_busy : s.dropWrite.busy = s.busy := rfl

end Sys2Proof.Machine
end

