-- ==== Sys2Proof/Laws/Ops.lean ====
section
/-! SUPPORT. What the shared operations and each command can do, said once. -/

namespace Sys2Proof.Machine

/-! ### Byte ranges -/

theorem Span.overlaps_iff (x y : Span) :
    x.overlaps y = true ↔ 0 < x.len ∧ 0 < y.len ∧ x.base < y.base + y.len ∧ y.base < x.base + x.len := by
  simp [Span.overlaps, and_assoc]

theorem Span.inRange_iff (x : Span) : x.inRange = true ↔ x.base + x.len ≤ 2 ^ 64 := by
  exact decide_eq_true_iff

/-- Two ranges overlap exactly when they share an address. -/
theorem Span.overlaps_iff_shared (x y : Span) : x.overlaps y = true ↔ ∃ a, x.has a ∧ y.has a := by
  rw [Span.overlaps_iff]
  constructor
  · intro h
    refine ⟨max x.base y.base, ?_, ?_⟩ <;> simp only [Span.has] <;> omega
  · rintro ⟨a, hx, hy⟩
    simp only [Span.has] at hx hy
    omega

theorem Span.onLine_iff (x : Span) (a : Nat) : x.onLine a = true ↔ x.touchesLine a := by
  simp [Span.onLine, Span.touchesLine, Span.mem_addrs]

theorem Span.touchesLine_of_has {x : Span} {a : Nat} (h : x.has a) : x.touchesLine a := ⟨a, h, rfl⟩

/-! ### Pre-checks -/

@[simp] theorem firstError_nil : firstError [] = none := rfl

@[simp] theorem firstError_cons (b : Bool) (e : ErrCode) (l : List (Bool × ErrCode)) :
    firstError ((b, e) :: l) = if b then some e else firstError l := rfl

theorem firstError_eq_none (l : List (Bool × ErrCode)) : firstError l = none ↔ ∀ p ∈ l, p.1 = false := by
  induction l with
  | nil => simp
  | cons p l ih => obtain ⟨b, e⟩ := p; cases b <;> simp [ih]

theorem keyLoadCheck_eq_none (s : State) : s.keyLoadCheck = none ↔ s.keylen = 64 := by
  rw [State.keyLoadCheck, firstError_eq_none]; simp

theorem s2vInitCheck_eq_none (s : State) : s.s2vInitCheck = none ↔ s.keyValid = true := by
  rw [State.s2vInitCheck, firstError_eq_none]; simp

theorem s2vItemCheck_eq_none (s : State) :
    s.s2vItemCheck = none ↔ s.keyValid = true ∧ s.s2vActive = true ∧ s.srcSpan.inRange = true := by
  rw [State.s2vItemCheck, firstError_eq_none]; simp

theorem ctrCheck_eq_none (s : State) :
    s.ctrCheck = none ↔ s.keyValid = true ∧ (s.srcSpan.inRange = true ∧ s.ctrDst.inRange = true) ∧
      (s.dst = s.src ∨ s.ctrDst.overlaps s.srcSpan = false) := by
  rw [State.ctrCheck, firstError_eq_none, or_iff_not_imp_left]; simp

theorem encCheck_eq_none (s : State) :
    s.encCheck = none ↔ s.keyValid = true ∧
      (s.srcSpan.inRange = true ∧ s.aadSpan.inRange = true ∧ s.encDst.inRange = true) ∧
      (s.encDst.overlaps s.srcSpan = false ∧ s.encDst.overlaps s.aadSpan = false) := by
  rw [State.encCheck, firstError_eq_none]; simp [and_assoc]

theorem decCheck_eq_none (s : State) :
    s.decCheck = none ↔ s.keyValid = true ∧ 16 ≤ s.srclen.toNat ∧
      (s.srcSpan.inRange = true ∧ s.aadSpan.inRange = true ∧ s.decDst.inRange = true) ∧
      (s.decDst.overlaps s.srcSpan = false ∧ s.decDst.overlaps s.aadSpan = false) := by
  rw [State.decCheck, firstError_eq_none]; simp [and_assoc]

/-- The output range of a command past its pre-check lies in the DMA space. -/
theorem writeSpan_inRange {s : State} {i : Instr} (h : s.preCheck i = none) :
    (s.writeSpan i).base + (s.writeSpan i).len ≤ dmaTop := by
  have hz : (0 : Nat) + 0 ≤ dmaTop := Nat.zero_le _
  cases i with
  | ctrXform => exact of_decide_eq_true ((ctrCheck_eq_none s).1 h).2.1.2
  | sivEncrypt => exact of_decide_eq_true ((encCheck_eq_none s).1 h).2.1.2.2
  | sivDecrypt => exact of_decide_eq_true ((decCheck_eq_none s).1 h).2.2.1.2.2
  | _ => exact hz

/-! ### A command with DMA ranges -/

theorem dirtyDisturbs_iff (reads : List Span) (write : Span) (a : Nat) :
    dirtyDisturbs reads write a = true ↔ write.touchesLine a ∨ ∃ y ∈ reads, y.has a := by
  simp [dirtyDisturbs, Span.onLine_iff]

/-- What disturbs a command (R86, R94, R98). -/
theorem State.hazard_iff (s : State) (reads : List Span) (write : Span) :
    s.hazard reads write = true ↔
      s.raced = true ∨
      (∃ y ∈ write :: reads, ∃ dev ∈ s.devices, ∃ a, y.has a ∧ dev.has a) ∨
      (Config.dmaCoherent = false ∧ ∃ a ∈ s.hostDirty, write.touchesLine a ∨ ∃ y ∈ reads, y.has a) := by
  simp only [State.hazard, Bool.or_eq_true, Bool.and_eq_true, List.any_eq_true, Span.overlaps_iff_shared,
    dirtyDisturbs_iff, Bool.not_eq_true', or_assoc]
  exact or_congr_right (or_congr_right and_comm)

/-- Exactly the bytes that wait for maintenance once a range was written under lines not written back. -/
theorem State.mem_addExposed (s : State) (write : Span) (a : Nat) :
    a ∈ (s.addExposed write).hostDirty ↔
      a ∈ s.hostDirty ∨ (write.has a ∧ ∃ b ∈ s.hostDirty, Config.cacheLine a = Config.cacheLine b) := by
  simp [State.addExposed, Span.mem_addrs, or_comm]

/-- Everything `dmaCommand` can answer when it answers a next state. -/
theorem dmaCommand_next {check : Option ErrCode} {reads : List Span} {write : Span} {race run : State → State}
    {s t : State} (h : dmaCommand check reads write race run s = .next t) :
    (∃ e, check = some e ∧ t = s.raise e) ∨
    (check = none ∧ windowHit (write :: reads) = false ∧ s.hazard reads write = true ∧ t = race s) ∨
    (check = none ∧ windowHit (write :: reads) = false ∧ s.hazard reads write = false ∧ t = run s) := by
  unfold dmaCommand at h
  cases check with
  | some e => left; exact ⟨e, rfl, by simpa using h.symm⟩
  | none =>
    right
    by_cases hw : windowHit (write :: reads)
    · simp [hw] at h
    · by_cases hz : s.hazard reads write
      · left; simp [hw, hz] at h; simp [hw, hz, h]
      · right; simp [hw, hz] at h; simp [hw, hz, h]

theorem dmaCommand_error {check : Option ErrCode} {e : ErrCode} (reads : List Span) (write : Span)
    (race run : State → State) (s : State) (h : check = some e) :
    dmaCommand check reads write race run s = .next (s.raise e) := by
  subst h; rfl

theorem dmaCommand_run {check : Option ErrCode} {reads : List Span} {write : Span} (race run : State → State)
    {s : State} (hc : check = none) (hw : windowHit (write :: reads) = false) (hz : s.hazard reads write = false) :
    dmaCommand check reads write race run s = .next (run s) := by
  subst hc; simp [dmaCommand, hw, hz]

theorem dmaCommand_race {check : Option ErrCode} {reads : List Span} {write : Span} (race run : State → State)
    {s : State} (hc : check = none) (hw : windowHit (write :: reads) = false) (hz : s.hazard reads write = true) :
    dmaCommand check reads write race run s = .next (race s) := by
  subst hc; simp [dmaCommand, hw, hz]

/-- No command faults. -/
theorem dmaCommand_ne_fault (check : Option ErrCode) (reads : List Span) (write : Span) (race run : State → State)
    (s : State) (f : Fault) : dmaCommand check reads write race run s ≠ .fault f := by
  unfold dmaCommand
  cases check with
  | some e => simp
  | none =>
    by_cases hw : windowHit (write :: reads)
    · simp [hw]
    · by_cases hz : s.hazard reads write <;> simp [hw, hz]

/-! ### The strings a command writes -/

@[simp] theorem length_freeBytes (k n : Nat) : (freeBytes k n).length = n := by simp [freeBytes]

@[simp] theorem State.length_srcBytes (s : State) : s.srcBytes.length = s.srclen.toNat := by
  exact Memory.length_readSpan _ _

@[simp] theorem State.length_aadBytes (s : State) : s.aadBytes.length = s.aadlen.toNat := by
  exact Memory.length_readSpan _ _

/-! ### Each command, when it answers a next state -/

theorem execKeyLoad_eq (s : State) :
    execKeyLoad s = .next
      (if s.keylen = 64 then
        State.complete
          { s with
            keyW := zeroStaging, d := 0, s2vActive := false, items := 0,
            k1 := keyAt (keyBuf s.keyW) 0, k2 := keyAt (keyBuf s.keyW) 32, keyValid := true }
      else
        State.raise .invalidKeySize
          { s with
            keyW := zeroStaging, d := 0, s2vActive := false, items := 0, k1 := zeroKey, k2 := zeroKey,
            keyValid := false }) := by
  by_cases h : s.keylen = 64
  · have hc : s.keyLoadCheck = none := (keyLoadCheck_eq_none s).2 h
    simp only [execKeyLoad, hc, if_pos h]
  · have hc : s.keyLoadCheck = some .invalidKeySize := by
      have hb : (s.keylen != 64) = true := bne_iff_ne.2 h
      rw [State.keyLoadCheck, firstError_cons, if_pos hb]
    simp only [execKeyLoad, hc, if_neg h]

theorem execS2vInit_eq (s : State) :
    execS2vInit s = .next
      (if s.keyValid then State.complete { s with d := s2vSeed Config.mac s.k1, items := 0, s2vActive := true }
      else s.raise .noKey) := by
  by_cases h : s.keyValid <;> simp [execS2vInit, State.s2vInitCheck, h]

theorem execIvVerify_eq (s : State) :
    execIvVerify s = .next (if ctEq s.v s.ivref then State.complete { s with authOk := true } else s.raise .authFailed) := by
  by_cases h : ctEq s.v s.ivref <;> simp [execIvVerify, h]

end Sys2Proof.Machine
end

