-- ==== Sys2Proof/Laws/Commands.lean ====
section
/-! SUPPORT. What each command that uses DMA leaves, field by field, in each way it can go past its pre-checks. -/

namespace Sys2Proof.Machine

/-! ### Success -/

theorem runS2vAd_ok {s : State} (h : busFails [s.srclen.toNat] s.busAnswers = false) :
    runS2vAd s =
      { s with
        d := s2vAbsorb Config.mac s.k1 s.d s.srcBytes
        items := bumpItems s.items
        busAnswers := busRest [s.srclen.toNat] s.busAnswers
        stage := .idle, done := true, raced := false } := by
  simp only [runS2vAd, h]
  rfl

theorem runS2vFinal_ok {s : State} (h : busFails [s.srclen.toNat] s.busAnswers = false) :
    runS2vFinal s =
      { s with
        v := Config.mac s.k1 (s2vLast s.d s.srcBytes)
        d := 0, s2vActive := false
        busAnswers := busRest [s.srclen.toNat] s.busAnswers
        stage := .idle, done := true, raced := false } := by
  simp only [runS2vFinal, h]
  rfl

theorem runCtrXform_ok {s : State} (h : busFails [s.srclen.toNat, s.srclen.toNat] s.busAnswers = false) :
    runCtrXform s =
      { s with
        mem := Memory.writeBytes s.mem s.dst.toNat s.ctrOutput
        hostStale := Memory.copies s.mem ⟨s.dst.toNat, s.ctrOutput.length⟩ ++ s.hostStale
        busAnswers := busRest [s.srclen.toNat, s.srclen.toNat] s.busAnswers
        outlen := s.srclen, stage := .idle, done := true, raced := false } := by
  unfold runCtrXform
  rw [if_neg (by rw [h]; decide)]
  simp only [State.complete, State.dmaWrite, State.consume]

theorem runSivEncrypt_ok {s : State}
    (h : busFails [s.aadlen.toNat, s.srclen.toNat, s.srclen.toNat, 16 + s.srclen.toNat] s.busAnswers = false) :
    runSivEncrypt s =
      { s with
        mem := Memory.writeBytes s.mem s.dst.toNat s.encOutput
        hostStale := Memory.copies s.mem ⟨s.dst.toNat, s.encOutput.length⟩ ++ s.hostStale
        busAnswers := busRest [s.aadlen.toNat, s.srclen.toNat, s.srclen.toNat, 16 + s.srclen.toNat] s.busAnswers
        v := s.encIv, outlen := s.srclen + 16, d := 0, s2vActive := false
        stage := .idle, done := true, raced := false } := by
  unfold runSivEncrypt
  dsimp only
  rw [if_neg (by rw [h]; decide)]
  simp only [State.complete, State.dmaWrite, State.consume, State.endSequence]

theorem runSivDecrypt_ok {s : State} (h1 : busFails s.decPass1 s.busAnswers = false) (hm : s.decMatch = true)
    (h2 : busFails s.decPass2 (busRest s.decPass1 s.busAnswers) = false) :
    runSivDecrypt s =
      { s with
        mem := Memory.writeBytes s.mem s.dst.toNat s.decPlain
        hostStale := Memory.copies s.mem ⟨s.dst.toNat, s.decPlain.length⟩ ++ s.hostStale
        busAnswers := busRest s.decPass2 (busRest s.decPass1 s.busAnswers)
        v := s.decIvr, outlen := s.srclen - 16, d := 0, s2vActive := false, authOk := true
        stage := .idle, done := true, raced := false } := by
  unfold runSivDecrypt
  dsimp only
  rw [if_neg (by rw [h1]; decide), if_neg (by rw [hm]; decide), if_neg (by simpa using h2)]
  simp only [State.complete, State.dmaWrite, State.consume, State.endSequence]

/-! ### Failure -/

theorem runSivDecrypt_mismatch {s : State} (h1 : busFails s.decPass1 s.busAnswers = false) (hm : s.decMatch = false) :
    runSivDecrypt s =
      { s with
        v := 0, d := 0, s2vActive := false, err := true, errCode := .authFailed
        busAnswers := busRest s.decPass1 s.busAnswers
        stage := .idle, done := true, raced := false } := by
  unfold runSivDecrypt
  dsimp only
  rw [if_neg (by rw [h1]; decide), if_pos (by rw [hm]; decide)]
  simp only [State.raise, State.complete, State.consume, State.endSequence]

theorem runS2vAd_bus {s : State} (h : busFails [s.srclen.toNat] s.busAnswers = true) :
    runS2vAd s = (s.consume [s.srclen.toNat]).busError := by
  simp only [runS2vAd, h]
  rfl

theorem runS2vFinal_bus {s : State} (h : busFails [s.srclen.toNat] s.busAnswers = true) :
    runS2vFinal s = (s.consume [s.srclen.toNat]).busError := by
  simp only [runS2vFinal, h]
  rfl

theorem runCtrXform_bus {s : State} (h : busFails [s.srclen.toNat, s.srclen.toNat] s.busAnswers = true) :
    runCtrXform s =
      ((s.consume [s.srclen.toNat, s.srclen.toNat]).partialWrite s.dst.toNat s.ctrOutput).busError := by
  unfold runCtrXform
  rw [if_pos h]

theorem runSivEncrypt_bus {s : State}
    (h : busFails [s.aadlen.toNat, s.srclen.toNat, s.srclen.toNat, 16 + s.srclen.toNat] s.busAnswers = true) :
    runSivEncrypt s =
      (((s.consume [s.aadlen.toNat, s.srclen.toNat, s.srclen.toNat, 16 + s.srclen.toNat]).endSequence).partialWrite
        s.dst.toNat s.encOutput).busError := by
  unfold runSivEncrypt
  dsimp only
  rw [if_pos h]

theorem runSivDecrypt_bus1 {s : State} (h : busFails s.decPass1 s.busAnswers = true) :
    runSivDecrypt s = ((s.consume s.decPass1).endSequence).busError := by
  unfold runSivDecrypt
  dsimp only
  rw [if_pos h]

theorem runSivDecrypt_bus2 {s : State} (h1 : busFails s.decPass1 s.busAnswers = false) (hm : s.decMatch = true)
    (h2 : busFails s.decPass2 (busRest s.decPass1 s.busAnswers) = true) :
    runSivDecrypt s =
      ((((s.consume s.decPass1).endSequence).consume s.decPass2).partialWrite s.dst.toNat s.decPlain).busError := by
  unfold runSivDecrypt
  dsimp only
  rw [if_neg (by rw [h1]; decide), if_neg (by rw [hm]; decide), if_pos (by simpa using h2)]

/-- The ways SIV_DECRYPT can go past its pre-checks. -/
theorem runSivDecrypt_cases (s : State) :
    busFails s.decPass1 s.busAnswers = true ∨
    (busFails s.decPass1 s.busAnswers = false ∧ s.decMatch = false) ∨
    (busFails s.decPass1 s.busAnswers = false ∧ s.decMatch = true ∧
      busFails s.decPass2 (busRest s.decPass1 s.busAnswers) = true) ∨
    (busFails s.decPass1 s.busAnswers = false ∧ s.decMatch = true ∧
      busFails s.decPass2 (busRest s.decPass1 s.busAnswers) = false) := by
  cases busFails s.decPass1 s.busAnswers <;> cases s.decMatch <;>
    cases busFails s.decPass2 (busRest s.decPass1 s.busAnswers) <;> simp

/-! ### The lengths of what is written -/

@[simp] theorem State.length_ctrOutput (s : State) : s.ctrOutput.length = s.srclen.toNat := by
  simp [State.ctrOutput]

@[simp] theorem State.length_encOutput (s : State) : s.encOutput.length = 16 + s.srclen.toNat := by
  simp [State.encOutput, State.encBody]

@[simp] theorem State.length_decPlain (s : State) : s.decPlain.length = s.srclen.toNat - 16 := by
  simp [State.decPlain]

theorem State.encOutput_eq (s : State) :
    s.encOutput = sivEnc Config.mac Config.e s.k1 s.k2 s.aadBytes s.srcBytes := rfl

theorem State.sivDec_eq (s : State) :
    sivDec Config.mac Config.e s.k1 s.k2 s.aadBytes s.srcBytes = if s.decMatch then some s.decPlain else none := rfl

/-! ### The bus oracle when it answers no error -/

theorem busFails_noErrors (ns : List Nat) (es : List Bool) (h : ∀ b ∈ es, b = false) : busFails ns es = false := by
  induction ns generalizing es with
  | nil => cases es <;> rfl
  | cons n ns ih =>
    cases es with
    | nil => rfl
    | cons e es =>
      unfold busFails
      split
      · exact ih _ h
      · rw [h e (by simp)]
        exact ih _ fun b hb => h b (by simp [hb])

theorem busRest_noErrors (ns : List Nat) (es : List Bool) (h : ∀ b ∈ es, b = false) :
    ∀ b ∈ busRest ns es, b = false := by
  induction ns generalizing es with
  | nil => cases es <;> exact h
  | cons n ns ih =>
    cases es with
    | nil => simp [busRest]
    | cons e es =>
      unfold busRest
      split
      · exact ih _ h
      · rw [h e (by simp)]
        exact ih _ fun b hb => h b (by simp [hb])

end Sys2Proof.Machine
end

