-- ==== Sys2Proof/Laws/Csr.lean ====
section
/-! SUPPORT. The CSR window: which accesses the port takes, the halves of a pair, the words of a block register. -/

namespace Sys2Proof.Machine

theorem csrAccessOk_iff (off size : Nat) :
    csrAccessOk off size = true ↔ size = 4 ∧ off % 4 = 0 ∧ off < 0x1000 := by
  rw [csrAccessOk, Bool.and_eq_true, Bool.and_eq_true, and_assoc, decide_eq_true_iff, decide_eq_true_iff,
    decide_eq_true_iff]
  rfl

theorem setLo_getLsbD (x : DWord) (w : Word) (i : Nat) :
    (setLo x w).getLsbD i = if i < 32 then w.getLsbD i else (hiWord x).getLsbD (i - 32) :=
  BitVec.getLsbD_append

theorem setHi_getLsbD (x : DWord) (w : Word) (i : Nat) :
    (setHi x w).getLsbD i = if i < 32 then (loWord x).getLsbD i else w.getLsbD (i - 32) :=
  BitVec.getLsbD_append

@[simp] theorem loWord_setLo (x : DWord) (w : Word) : loWord (setLo x w) = w := by
  apply BitVec.eq_of_getLsbD_eq
  intro i hi
  simp [loWord, setLo_getLsbD, hi]

@[simp] theorem hiWord_setLo (x : DWord) (w : Word) : hiWord (setLo x w) = hiWord x := by
  apply BitVec.eq_of_getLsbD_eq
  intro i hi
  rw [hiWord, BitVec.getLsbD_extractLsb', setLo_getLsbD, if_neg (by omega), Nat.add_sub_cancel_left]
  simp [hi]

@[simp] theorem hiWord_setHi (x : DWord) (w : Word) : hiWord (setHi x w) = w := by
  apply BitVec.eq_of_getLsbD_eq
  intro i hi
  rw [hiWord, BitVec.getLsbD_extractLsb', setHi_getLsbD, if_neg (by omega), Nat.add_sub_cancel_left]
  simp [hi]

@[simp] theorem loWord_setHi (x : DWord) (w : Word) : loWord (setHi x w) = loWord x := by
  apply BitVec.eq_of_getLsbD_eq
  intro i hi
  rw [loWord, BitVec.getLsbD_extractLsb', Nat.zero_add, setHi_getLsbD, if_pos hi]
  simp [hi]

/-- The other words of a block register stay. -/
theorem blockWord_setBlockWord_ne (b : Block) {i j : Nat} (w : Word) (hi : i < 4) (hj : j < 4) (h : j ≠ i) :
    blockWord (setBlockWord b i w) j = blockWord b j := by
  have hlen : ((blockBytes b).take (4 * i) ++ laneBytes w ++ (blockBytes b).drop (4 * i + 4)).length = 16 := by
    simp; omega
  have hget : ∀ k, k < 4 →
      ((blockBytes b).take (4 * i) ++ laneBytes w ++ (blockBytes b).drop (4 * i + 4)).getD (4 * j + k) 0
        = (blockBytes b).getD (4 * j + k) 0 := by
    intro k hk
    rw [List.getD_eq_getElem?_getD, List.getD_eq_getElem?_getD]
    congr 1
    rcases Nat.lt_or_gt_of_ne h with hlt | hgt
    · rw [List.append_assoc, List.getElem?_append_left (by simp; omega), List.getElem?_take, if_pos (by omega)]
    · rw [List.getElem?_append_right (by simp; omega), List.getElem?_drop]
      congr 1
      simp; omega
  unfold blockWord setBlockWord
  rw [blockBytes_bytesBlock _ hlen]
  have h0 : ((blockBytes b).take (4 * i) ++ laneBytes w ++ (blockBytes b).drop (4 * i + 4)).getD (4 * j) 0
      = (blockBytes b).getD (4 * j) 0 := hget 0 (by omega)
  simp only
  rw [h0, hget 1 (by omega), hget 2 (by omega), hget 3 (by omega)]

/-- Byte `k` of a block, as a field of the big-endian integer (R11). -/
theorem getElem_blockBytes_field (b : Block) (k : Nat) (hk : k < (blockBytes b).length) :
    (blockBytes b)[k] = b.extractLsb' (8 * (15 - k)) 8 := by
  rw [getElem_blockBytes]
  apply BitVec.eq_of_toNat_eq
  rw [BitVec.toNat_ofNat, BitVec.extractLsb'_toNat, Nat.shiftRight_eq_div_pow, Nat.pow_mul]

theorem getD_blockBytes_field (b : Block) (k : Nat) (hk : k < 16) :
    (blockBytes b).getD k 0 = b.extractLsb' (8 * (15 - k)) 8 := by
  have hk' : k < (blockBytes b).length := by simpa using hk
  rw [List.getD_eq_getElem _ _ hk', getElem_blockBytes_field]

/-- Lane byte `j` of a word. -/
theorem laneWord_byte (b0 b1 b2 b3 : Byte) (j : Fin 4) :
    (laneWord b0 b1 b2 b3).extractLsb' (8 * j.val) 8 = [b0, b1, b2, b3][j.val] := by
  apply BitVec.eq_of_getLsbD_eq
  intro i hi
  rw [BitVec.getLsbD_extractLsb', laneWord]
  simp only [BitVec.getLsbD_append, hi, decide_true, Bool.true_and]
  match j with
  | 0 => exact (if_pos (by omega)).trans (by congr 1; omega)
  | 1 => exact (if_neg (by omega)).trans ((if_pos (by omega)).trans (by congr 1; omega))
  | 2 => exact (if_neg (by omega)).trans ((if_neg (by omega)).trans ((if_pos (by omega)).trans (by congr 1; omega)))
  | 3 => exact (if_neg (by omega)).trans ((if_neg (by omega)).trans ((if_neg (by omega)).trans (by congr 1; omega)))

/-- R47, R48: lane byte `j` of word `i` is byte `4·i + j` of the block. -/
theorem blockWord_byte (b : Block) (i j : Fin 4) :
    (blockWord b i.val).extractLsb' (8 * j.val) 8 = b.extractLsb' (8 * (15 - (4 * i.val + j.val))) 8 := by
  have hi := i.isLt
  simp only [blockWord]
  rw [laneWord_byte, getD_blockBytes_field _ _ (by omega), getD_blockBytes_field _ _ (by omega),
    getD_blockBytes_field _ _ (by omega), getD_blockBytes_field _ _ (by omega)]
  fin_cases j <;> rfl

/-- R47, R48: the bytes of a block after its word `i` is written. -/
theorem setBlockWord_byte (b : Block) (i : Fin 4) (w : Word) (k : Fin 16) :
    (setBlockWord b i.val w).extractLsb' (8 * (15 - k.val)) 8 =
      if k.val / 4 = i.val then w.extractLsb' (8 * (k.val % 4)) 8 else b.extractLsb' (8 * (15 - k.val)) 8 := by
  have hk := k.isLt
  have h4 : k.val / 4 < 4 := by omega
  have hm : k.val % 4 < 4 := Nat.mod_lt _ (by decide)
  have hsplit : 4 * (k.val / 4) + k.val % 4 = k.val := Nat.div_add_mod _ _
  have h := blockWord_byte (setBlockWord b i.val w) ⟨k.val / 4, h4⟩ ⟨k.val % 4, hm⟩
  have h' := blockWord_byte b ⟨k.val / 4, h4⟩ ⟨k.val % 4, hm⟩
  simp only [hsplit] at h h'
  rw [← h, ← h']
  split
  · next he => rw [he, blockWord_setBlockWord _ _ _ i.isLt]
  · next he => rw [blockWord_setBlockWord_ne b w i.isLt h4 he]

/-- The write of an operand register while no command runs. -/
theorem writeOperand_idle {s : State} (f : State → State) (h : s.busy = false) : s.writeOperand f = f s := by
  simp [State.writeOperand, h]

/-- The write of an operand register while a command runs. -/
theorem writeOperand_busy {s : State} (f : State → State) (h : s.busy = true) : s.writeOperand f = s.dropWrite := by
  simp [State.writeOperand, h]

theorem writeCtrl_enable {s : State} {w : Word} (h : w.getLsbD 1 = false) :
    s.writeCtrl w = { s with irqEn := w.getLsbD 0 } := by
  rw [State.writeCtrl, if_neg (by rw [h]; decide)]

theorem writeCtrl_resetBusy {s : State} {w : Word} (h : w.getLsbD 1 = true) (hb : s.busy = true) :
    s.writeCtrl w = { s with srPending := true } := by
  rw [State.writeCtrl, if_pos h, if_pos hb]

theorem writeCtrl_resetIdle {s : State} {w : Word} (h : w.getLsbD 1 = true) (hb : s.busy = false) :
    s.writeCtrl w = s.resetEngine := by
  rw [State.writeCtrl, if_pos h, if_neg (by rw [hb]; decide)]

/-- A write to STATUS, field by field. -/
theorem writeStatus_eq (w : Word) (s : State) :
    s.writeStatus w =
      { s with
        done := s.done && !w.getLsbD 1
        err := s.err && !w.getLsbD 2
        errCode := if w.getLsbD 2 then .none else s.errCode
        ovr := s.ovr && !w.getLsbD 6 } := by
  unfold State.writeStatus
  cases w.getLsbD 1 <;> cases w.getLsbD 2 <;> cases w.getLsbD 6 <;>
    simp [State.clearDone, State.clearError, State.clearOvr]

/-- A host write the port takes. -/
theorem hostCsrWrite_ok {off : Nat} (w : Word) (s : State) (h4 : off % 4 = 0) (hw : off < 0x1000) :
    s.hostCsrWrite off 4 w = { writeCsr (Csr.ofOffset off) w s with resp := .done } := by
  rw [State.hostCsrWrite, if_pos ((csrAccessOk_iff off 4).2 ⟨rfl, h4, hw⟩)]

end Sys2Proof.Machine
end

