-- ==== Sys2Proof/Laws/PerInstr.lean ====
section
/-! SUPPORT. Laws that hold of every command as syntax, stated once and shown per command. -/

namespace Sys2Proof.Laws.EncodesAssigned

/-- The word of a command is well formed and holds the command's opcode, with RSVD zero (R110, R121). -/
def Statement (i : Instr) : Prop :=
  WellFormed.command (encode i) = true ∧ opcodeField (encode i) = i.opcode ∧ rsvdField (encode i) = 0

theorem nop : Statement .nop := ⟨rfl, rfl, rfl⟩
theorem keyLoad : Statement .keyLoad := ⟨rfl, rfl, rfl⟩
theorem keyClear : Statement .keyClear := ⟨rfl, rfl, rfl⟩
theorem s2vInit : Statement .s2vInit := ⟨rfl, rfl, rfl⟩
theorem s2vAd : Statement .s2vAd := ⟨rfl, rfl, rfl⟩
theorem s2vFinal : Statement .s2vFinal := ⟨rfl, rfl, rfl⟩
theorem ctrXform : Statement .ctrXform := ⟨rfl, rfl, rfl⟩
theorem ivVerify : Statement .ivVerify := ⟨rfl, rfl, rfl⟩
theorem sivEncrypt : Statement .sivEncrypt := ⟨rfl, rfl, rfl⟩
theorem sivDecrypt : Statement .sivDecrypt := ⟨rfl, rfl, rfl⟩

end Sys2Proof.Laws.EncodesAssigned
end

