-- ==== Sys2Proof/Laws/Step.lean ====
section
/-! SUPPORT. What one step is: the next turn of the queue, or the engine's own. -/

namespace Sys2Proof.Machine

theorem step_of_empty {s : State} (h : s.inbox = []) : step s = engineStep s := by
  simp [step, oneStep, h]

theorem step_of_turn {s : State} {x : Input} {rest : List Input} (h : s.inbox = x :: rest) :
    step s = turn x { s with inbox := rest } := by
  simp [step, oneStep, h]

/-- The engine's turn, whether nothing waits or it is first in the queue. -/
theorem step_of_engineNext {s : State} {rest : List Input} (h : s.engineNext rest) :
    step s = engineStep { s with inbox := rest } := by
  obtain ⟨h, rfl⟩ | h := h
  · rw [step_of_empty h, ← h]
  · exact step_of_turn h

theorem engineStep_idle {s : State} (h : s.stage = .idle) : engineStep s = .next s := by
  simp [engineStep, h]

theorem engineStep_pending {s : State} {w : Word} (h : s.stage = .run w) (hp : s.srPending = true) :
    engineStep s = s.abort := by
  simp [engineStep, h, hp]

theorem engineStep_run {s : State} {w : Word} (h : s.stage = .run w) (hp : s.srPending = false) :
    engineStep s = runCommand w s := by
  simp [engineStep, h, hp]

theorem runCommand_ok {w : Word} {i : Instr} (s : State) (h : decode w = .ok i) : runCommand w s = exec i s := by
  simp [runCommand, h]

theorem runCommand_error {w : Word} {e : DecodeError} (s : State) (h : decode w = .error e) :
    runCommand w s = .next (s.raise .illegalCmd) := by
  simp [runCommand, h]

/-- Everything the engine's turn can be. -/
theorem engineStep_cases (s : State) :
    (s.stage = .idle ∧ engineStep s = .next s) ∨
    (∃ w, s.stage = .run w ∧ s.srPending = true ∧ engineStep s = s.abort) ∨
    (∃ w i, s.stage = .run w ∧ s.srPending = false ∧ decode w = .ok i ∧ engineStep s = exec i s) ∨
    (∃ w e, s.stage = .run w ∧ s.srPending = false ∧ decode w = .error e ∧
      engineStep s = .next (s.raise .illegalCmd)) := by
  cases hs : s.stage with
  | idle => exact .inl ⟨rfl, engineStep_idle hs⟩
  | run w =>
    cases hp : s.srPending with
    | true => exact .inr (.inl ⟨w, rfl, rfl, engineStep_pending hs hp⟩)
    | false =>
      cases hd : decode w with
      | ok i => exact .inr (.inr (.inl ⟨w, i, rfl, rfl, hd, by rw [engineStep_run hs hp, runCommand_ok s hd]⟩))
      | error e => exact .inr (.inr (.inr ⟨w, e, rfl, rfl, hd, by rw [engineStep_run hs hp, runCommand_error s hd]⟩))

/-- Everything an abort can answer. -/
theorem abort_next {s t : State} (h : s.abort = .next t) : s.runningOverWindow = false ∧ t = s.settle.resetEngine := by
  unfold State.abort at h
  by_cases hw : s.runningOverWindow
  · simp [hw] at h
  · simp [hw] at h; simp [hw, h]

/-- Everything a host access of memory can answer when it answers a next state. -/
theorem checkHostSpan_next {x : Span} {s t : State} {k : State → Host.Outcome State Fault Refusal}
    (h : s.checkHostSpan x k = .next t) :
    x.inRange = true ∧ windowHit [x] = false ∧ s.devices.any x.overlaps = false ∧ k s = .next t := by
  unfold State.checkHostSpan at h
  by_cases h1 : x.inRange
  · by_cases h2 : windowHit [x]
    · simp [h1, h2] at h
    · by_cases h3 : s.devices.any x.overlaps
      · simp [h1, h2, h3] at h
      · simp only [h1, h2, h3] at h
        exact ⟨h1, by simpa using h2, by simpa using h3, by simpa using h⟩
  · simp [h1] at h

/-- A host access that runs. -/
theorem checkHostSpan_ok {x : Span} {s : State} (k : State → Host.Outcome State Fault Refusal)
    (h1 : x.inRange = true) (h2 : windowHit [x] = false) (h3 : s.devices.any x.overlaps = false) :
    s.checkHostSpan x k = k s := by
  rw [State.checkHostSpan, if_neg (by rw [h1]; decide), if_neg (by rw [h2]; decide), if_neg (by rw [h3]; decide)]

theorem running_of_stage {s : State} {w : Word} {i : Instr} (h : s.stage = .run w) (hd : decode w = .ok i) :
    s.running = some i := by
  simp [State.running, h, hd]

theorem running_idle {s : State} (h : s.stage = .idle) : s.running = none := by
  simp [State.running, h]

/-- While no command runs, memory is what it is. -/
theorem partialMem_idle {s : State} (h : s.stage = .idle) : s.partialMem = s.mem := by
  simp [State.partialMem, running_idle h]

/-- A running command is one whose accepted word decodes to it. -/
theorem running_eq_some {s : State} {i : Instr} (h : s.running = some i) : ∃ w, s.stage = .run w ∧ decode w = .ok i := by
  unfold State.running at h
  cases hs : s.stage with
  | idle => simp [hs] at h
  | run w =>
    cases hd : decode w with
    | ok j =>
      simp only [hs, hd, Option.some.injEq] at h
      exact ⟨w, rfl, by rw [← h, hd]⟩
    | error e => simp [hs, hd] at h

theorem storeRaces_busy {x : Span} {s : State} (h : s.storeRaces x = true) : s.busy = true := by
  unfold State.storeRaces at h
  cases hr : s.running with
  | none => simp [hr] at h
  | some i =>
    obtain ⟨w, hs, -⟩ := running_eq_some hr
    exact (State.busy_eq_true_iff s).2 ⟨w, hs⟩

theorem maintenanceRaces_busy {x : Span} {s : State} (h : s.maintenanceRaces x = true) : s.busy = true := by
  unfold State.maintenanceRaces at h
  cases hr : s.running with
  | none => simp [hr] at h
  | some i =>
    obtain ⟨w, hs, -⟩ := running_eq_some hr
    exact (State.busy_eq_true_iff s).2 ⟨w, hs⟩

theorem State.mem_staleCopies (s : State) (a : Nat) (v : Byte) : v ∈ s.staleCopies a ↔ (a, v) ∈ s.hostStale := by
  simp only [State.staleCopies, List.mem_map, List.mem_filter, beq_iff_eq]
  exact ⟨fun ⟨⟨b, w⟩, ⟨h1, h2⟩, h3⟩ => by cases h2; cases h3; exact h1, fun h => ⟨(a, v), ⟨h, rfl⟩, rfl⟩⟩

/-- The caches show what memory shows, or a copy. -/
theorem cachedByte_cases (s : State) (new : Byte) (a : Nat) :
    s.cachedByte new a = new ∨ (a, s.cachedByte new a) ∈ s.hostStale := by
  unfold State.cachedByte
  cases h : (new :: s.staleCopies a)[Config.freeCopy s.draws a]? with
  | none => simp [List.getD, h]
  | some v =>
    have hv := List.mem_of_getElem? h
    have he : (new :: s.staleCopies a).getD (Config.freeCopy s.draws a) new = v := by simp [List.getD, h]
    rw [List.mem_cons, State.mem_staleCopies] at hv
    rwa [he]

/-- Everything a loaded byte can be: what memory shows, or a stale copy on a platform that needs cache maintenance. -/
theorem loadByte_cases (s : State) (a : Nat) :
    s.loadByte a = Memory.read s.partialMem a ∨ (Config.dmaCoherent = false ∧ (a, s.loadByte a) ∈ s.hostStale) := by
  unfold State.loadByte
  dsimp only
  cases Config.dmaCoherent with
  | true => exact .inl rfl
  | false => exact (cachedByte_cases s _ a).imp id fun h => ⟨rfl, h⟩

/-- What a clean leaves at an address: the byte from before, or a copy where a byte not written back waited. -/
theorem read_cacheClean {x : Span} {s : State} (hw : Memory.wf s.mem = true) (a : Nat) :
    Memory.read (s.cacheClean x).mem a = Memory.read s.mem a ∨
      (Config.dmaCoherent = false ∧ a ∈ s.hostDirty ∧ x.touchesLine a ∧
        (a, Memory.read (s.cacheClean x).mem a) ∈ s.hostStale) := by
  unfold State.cacheClean
  dsimp only
  cases Config.dmaCoherent with
  | true => exact .inl rfl
  | false =>
    rcases Memory.read_replace_cases (f := fun a => s.cachedByte (Memory.read s.mem a) a) (as := s.hostDirty.filter x.onLine)
      hw a with h | ⟨h1, h2⟩
    · exact .inl h
    · rw [List.mem_filter, Span.onLine_iff] at h1
      rcases cachedByte_cases s (Memory.read s.mem a) a with h3 | h3
      · exact .inl (h2.trans h3)
      · exact .inr ⟨rfl, h1.1, h1.2, by rw [if_neg Bool.false_ne_true, h2]; exact h3⟩

/-- Where the host's caches hold no copy, a load shows memory. -/
theorem loadByte_fresh {s : State} {a : Nat} (h : ∀ c ∈ s.hostStale, c.1 ≠ a) :
    s.loadByte a = Memory.read s.partialMem a :=
  (loadByte_cases s a).resolve_right fun ⟨_, hc⟩ => h _ hc rfl

/-- What makes late cache maintenance a race. -/
theorem maintenanceRaces_iff {x : Span} {s : State} {i : Instr} (h : s.running = some i) :
    s.maintenanceRaces x = true ↔
      Config.dmaCoherent = false ∧
        ∃ b ∈ s.hostDirty, x.touchesLine b ∧ ((s.writeSpan i).touchesLine b ∨ ∃ y ∈ s.readSpans i, y.has b) := by
  simp only [State.maintenanceRaces, h, Bool.and_eq_true, List.any_eq_true, dirtyDisturbs_iff, Span.onLine_iff,
    Bool.not_eq_true']
  exact and_comm

/-- What makes a store a race. -/
theorem storeRaces_iff {x : Span} {s : State} {i : Instr} (h : s.running = some i) :
    s.storeRaces x = true ↔ ∃ y ∈ s.writeSpan i :: s.readSpans i, ∃ b, y.has b ∧ x.has b := by
  simp only [State.storeRaces, h, List.any_eq_true, Span.overlaps_iff_shared, and_comm]

@[simp] theorem acceptNext_stage (w : Word) (s : State) : (s.acceptNext w).stage = .run w := rfl
@[simp] theorem acceptNext_inbox (w : Word) (s : State) : (s.acceptNext w).inbox = .engineTurn :: s.inbox := rfl
@[simp] theorem acceptNext_srPending (w : Word) (s : State) : (s.acceptNext w).srPending = false := rfl

/-- The step after `acceptNext` runs the word. -/
theorem step_acceptNext (w : Word) (s : State) :
    step (s.acceptNext w) = runCommand w { State.accept w s with srPending := false } := by
  rw [step_of_turn (acceptNext_inbox w s)]
  exact engineStep_run (s := { State.accept w s with srPending := false }) (w := w) rfl rfl

end Sys2Proof.Machine
end

