-- ==== Sys2Proof/Tests/Slice0.lean ====
section
/-! SUPPORT. The model's own tests. Expected values are the spec's: its encoding table (R112), the vectors of
95_test_vectors.md (named in each test), and the rules' worked examples. The second half shows, for every statement with
hypotheses, a state and operands that meet them. -/

namespace Sys2Proof.Tests

open Sys2Proof.Machine

/-! ### Well-formed words -/

/-- RSVD ≠ 0 is refused (T-ERR-2). -/
theorem test_wellFormed_refuses_rsvd : WellFormed.rsvdZero 0x00000110 = false := by decide

/-- The top bit of RSVD counts as well. -/
theorem test_wellFormed_refuses_top_rsvd_bit : WellFormed.rsvdZero 0x80000001 = false := by decide

/-- An unassigned opcode is refused (T-ERR-1, T-ERR-3). -/
theorem test_wellFormed_refuses_unassigned :
    WellFormed.opcodeAssigned 0x00000003 = false ∧ WellFormed.opcodeAssigned 0x000000FF = false := by decide

theorem test_wellFormed_command :
    WellFormed.command 0x00000031 = true ∧ WellFormed.command 0x00000110 = false ∧
      WellFormed.command 0x00000003 = false := by decide

/-! ### Decoding, from the words of R112's table written out bit by bit -/

theorem test_decode_nop : decode 0b00000000000000000000000000000000 = .ok .nop := by decide
theorem test_decode_keyLoad : decode 0b00000000000000000000000000000001 = .ok .keyLoad := by decide
theorem test_decode_keyClear : decode 0b00000000000000000000000000000010 = .ok .keyClear := by decide
theorem test_decode_s2vInit : decode 0b00000000000000000000000000010000 = .ok .s2vInit := by decide
theorem test_decode_s2vAd : decode 0b00000000000000000000000000010001 = .ok .s2vAd := by decide
theorem test_decode_s2vFinal : decode 0b00000000000000000000000000010010 = .ok .s2vFinal := by decide
theorem test_decode_ctrXform : decode 0b00000000000000000000000000100000 = .ok .ctrXform := by decide
theorem test_decode_ivVerify : decode 0b00000000000000000000000000100001 = .ok .ivVerify := by decide
theorem test_decode_sivEncrypt : decode 0b00000000000000000000000000110000 = .ok .sivEncrypt := by decide
theorem test_decode_sivDecrypt : decode 0b00000000000000000000000000110001 = .ok .sivDecrypt := by decide

theorem test_decode_rejects_by_name :
    decode 0x00000110 = .error .rsvdNonzero ∧ decode 0x00000003 = .error .unassignedOpcode ∧
      decodeBytes [0x10, 0x00, 0x00] = .error .tooShort := by decide

/-- The first byte of a command word is its least significant. -/
theorem test_decodeBytes_low_byte_first :
    decodeBytes [0x31, 0x00, 0x00, 0x00, 0xAA] = .ok (.sivDecrypt, [0xAA]) ∧
      decodeBytes [0x00, 0x00, 0x00, 0x31] = .error .rsvdNonzero := by decide

theorem test_decodeTableWord :
    decodeTableWord 32 0x30 = some .sivEncrypt ∧ decodeTableWord 32 0x33 = none ∧
      decodeTableWord 64 0x100000030 = none := by decide

/-! ### Pure functions (95_test_vectors.md sections 3 and 4) -/

/-- A byte string written as one hexadecimal number of `len` bytes, byte 0 first. -/
def hex (len n : Nat) : Bytes := (List.range len).map fun i => BitVec.ofNat 8 (n / 256 ^ (len - 1 - i))

/-- T-DBL-2, T-DBL-4, T-DBL-5, T-DBL-8. -/
theorem test_dbl :
    dbl 0x80000000000000000000000000000000 = 0x87 ∧
    dbl 0xffffffffffffffffffffffffffffffff = 0xffffffffffffffffffffffffffffff79 ∧
    dbl 0x7fffffffffffffffffffffffffffffff = 0xfffffffffffffffffffffffffffffffe ∧
    dbl 0x377822c09348ad3bcf3f1987bcf89b4a = 0x6ef0458126915a779e7e330f79f13694 := by decide

/-- T-PAD-1, T-PAD-2, T-PAD-3. -/
theorem test_pad :
    pad [] = hex 16 0x80000000000000000000000000000000 ∧
    pad (hex 14 0x112233445566778899aabbccddee) = hex 16 0x112233445566778899aabbccddee8000 ∧
    pad (List.replicate 15 0x11) = hex 16 0x11111111111111111111111111111180 := by decide

/-- T-XOREND-1, T-XOREND-2. -/
theorem test_xorend :
    xorend (List.replicate 16 0x11) 0x0500e712fe5afa67817eba7d0f60816f
      = hex 16 0x1411f603ef4beb76906fab6c1e71907e ∧
    xorend (hex 21 0x536f6d65206461746120746f20656e63727970742e) 0xe2d8250b7ddeaa0ea3693fcf8545d087
      = hex 21 0x536f6d652086b9516a5daac52ec6075cbdfc35a4a9 := by decide

/-- T-MASK-1, T-MASK-2, T-MASK-3. -/
theorem test_mask :
    mask 0xffffffffffffffffffffffffffffffff = 0xffffffffffffffff7fffffff7fffffff ∧
    mask 0xadd51fb60031abade7bc4a4fbed263c8 = 0xadd51fb60031abad67bc4a4f3ed263c8 ∧
    mask 0x80000000000000008000000080000000 = 0x80000000000000000000000000000000 := by decide

/-- T-INC-1, T-INC-3, T-INC-4, T-INC-5. -/
theorem test_counter :
    counter 0xffffffffffffffffffffffffffffffff 1 = 0 ∧
    counter 0x6e48d005a90782986a2d8f4270eef9ff 1 = 0x6e48d005a90782986a2d8f4270eefa00 ∧
    counter 0xffffffffffffffff7fffffff7fffffff 1 = 0xffffffffffffffff7fffffff80000000 ∧
    counter 0x0000000000000000ffffffffffffffff 1 = 0x00000000000000010000000000000000 := by decide

/-- T-CTEQ. -/
theorem test_ctEq :
    ctEq 0xadd51fb60031abade7bc4a4fbed263c8 0xadd51fb60031abade7bc4a4fbed263c8 = true ∧
    ctEq 0xadd51fb60031abade7bc4a4fbed263c8 0xadd51fb60031abade7bc4a4fbed263c9 = false ∧
    ctEq 0xadd51fb60031abade7bc4a4fbed263c8 0xacd51fb60031abade7bc4a4fbed263c8 = false := by decide

/-- The lanes of V after T-EX-1. -/
theorem test_block_lanes :
    blockWord 0xadd51fb60031abade7bc4a4fbed263c8 0 = 0xB61FD5AD ∧
    blockWord 0xadd51fb60031abade7bc4a4fbed263c8 3 = 0xC863D2BE ∧
    setBlockWord 0 1 0xADAB3100 = 0x000000000031abad0000000000000000 := by decide

/-! The two callouts of T-EX-1 as tables. -/

/-- "Additional data". -/
def exAad : Bytes := hex 15 0x4164646974696f6e616c2064617461

/-- "Some data to encrypt.". -/
def exMsg : Bytes := hex 21 0x536f6d65206461746120746f20656e63727970742e

/-- The 37 bytes of T-ENC-5. -/
def exCiphertext : Bytes :=
  hex 16 0xadd51fb60031abade7bc4a4fbed263c8 ++ hex 21 0xd77b8d005cb5ce9813a4dcecee7fc144897cec6891

/-- The MAC values that T-EX-1 and T-TAMPER-1 list, whatever the key. -/
def exMac (_ : Key) (m : Bytes) : Block :=
  if m = zeroBlock then 0x377822c09348ad3bcf3f1987bcf89b4a
  else if m = exAad then 0x8c28608a5b4ff0793d170cc0fcb4e613
  else if m = hex 21 0x536f6d652086b9516a5daac52ec6075cbdfc35a4a9 then 0xadd51fb60031abade7bc4a4fbed263c8
  else 0xdd38365cbd4b70fb24cc2ae584eb6a40

/-- The two cipher values that T-EX-1 lists, whatever the key. -/
def exE (_ : Key) (b : Block) : Block :=
  if b = 0xadd51fb60031abad67bc4a4f3ed263c8 then 0x8414e0657cd1afec7284a883ce1aaf27
  else 0xfb059c1cbf6dfddcb88da47563fb7faa

/-- T-S2V-2. -/
theorem test_s2v : s2v exMac zeroKey [exAad] exMsg = 0xadd51fb60031abade7bc4a4fbed263c8 := by decide

/-- T-S2V-6, T-S2V-7: 15 and 16 bytes take different branches. -/
theorem test_s2v_branches :
    s2vLast 0x0500e712fe5afa67817eba7d0f60816f (List.replicate 15 0x11)
      = hex 16 0x1b10df34eda4e5de13ec65eb0fd0135e ∧
    s2vLast 0x0500e712fe5afa67817eba7d0f60816f (List.replicate 16 0x11)
      = hex 16 0x1411f603ef4beb76906fab6c1e71907e := by decide

/-- T-CTR-1. -/
theorem test_ctr :
    ctr exE zeroKey 0xadd51fb60031abade7bc4a4fbed263c8 exMsg
      = hex 21 0xd77b8d005cb5ce9813a4dcecee7fc144897cec6891 := by decide

/-- T-ENC-5. -/
theorem test_sivEnc : sivEnc exMac exE zeroKey zeroKey exAad exMsg = exCiphertext := by decide

/-- T-DEC-1. -/
theorem test_sivDec : sivDec exMac exE zeroKey zeroKey exAad exCiphertext = some exMsg := by decide

/-- T-TAMPER-1 and T-TAMPER-2: a flipped body bit, and a flipped IV bit that the mask clears. -/
theorem test_sivDec_tampered :
    sivDec exMac exE zeroKey zeroKey exAad (exCiphertext.modify 20 (· ^^^ 1)) = none ∧
    sivDec exMac exE zeroKey zeroKey exAad (exCiphertext.modify 8 (· ^^^ 0x80)) = none := by decide

/-! ### One step each -/

/-- The state after a command, accepted from a state and run. -/
def run (i : Instr) (s : State) : Option State :=
  match exec i (State.accept (encode i) s) with
  | .next t => some t
  | _ => none

/-- STATUS after a command. -/
def status (i : Instr) (s : State) : Option Word := (run i s).map State.statusWord

/-- A key is loaded. -/
def keyed : State := { State.reset with keyValid := true }

/-- The staging registers of `key 00 01 .. 3f` (program P1). -/
def stagedKey : Vector Word 16 :=
  #v[0x03020100, 0x07060504, 0x0B0A0908, 0x0F0E0D0C, 0x13121110, 0x17161514, 0x1B1A1918, 0x1F1E1D1C,
     0x23222120, 0x27262524, 0x2B2A2928, 0x2F2E2D2C, 0x33323130, 0x37363534, 0x3B3A3938, 0x3F3E3D3C]

/-- T-KEY-9. -/
theorem test_nop_status : status .nop State.reset = some 0x00000002 := by decide

/-- T-KEY-1. -/
theorem test_keyLoad_splits :
    (run .keyLoad { State.reset with keyW := stagedKey, keylen := 64 }).map
        (fun t => (t.statusWord, t.k1.toList, t.k2.toList, t.keyW == zeroStaging)) =
      some (0x0000000A, (List.range 32).map (BitVec.ofNat 8), (List.range 32).map (fun i => BitVec.ofNat 8 (32 + i)),
        true) := by decide

/-- T-KEY-2, T-KEY-4: a wrong length destroys the key and the staging. -/
theorem test_keyLoad_wrong_length :
    (run .keyLoad { keyed with keyW := stagedKey, keylen := 48, k1 := Vector.replicate 32 7 }).map
        (fun t => (t.statusWord, t.k1 == zeroKey, t.keyW == zeroStaging)) =
      some (0x00000106, true, true) := by decide

/-- T-KEY-7. -/
theorem test_keyClear :
    (run .keyClear { keyed with v := 5, ivref := 6, keylen := 64, k2 := Vector.replicate 32 7 }).map
        (fun t => (t.statusWord, t.v, t.ivref, t.k2 == zeroKey, t.keylen)) =
      some (0x00000002, 0, 0, true, 64) := by decide

/-- T-S2VCMD-1, T-S2VCMD-10. -/
theorem test_s2vInit_status :
    status .s2vInit keyed = some 0x0000001A ∧ status .s2vInit State.reset = some 0x00000406 := by decide

/-- T-S2VCMD-4, T-ERR-4. -/
theorem test_s2vAd_sequence :
    status .s2vAd keyed = some 0x0000060E ∧ status .s2vAd State.reset = some 0x00000406 := by decide

/-- T-S2VCMD-5: the sequence and ITEMS stay. -/
theorem test_s2vAd_range :
    (run .s2vAd { keyed with s2vActive := true, items := 1, src := 0xFFFFFFFFFFFFFFFF, srclen := 2 }).map
        (fun t => (t.statusWord, t.items)) = some (0x0000071E, 1) := by decide

/-- R175 with an empty item: ITEMS counts it, and saturates. -/
theorem test_s2vAd_counts :
    (run .s2vAd { keyed with s2vActive := true, items := 1 }).map (fun t => (t.statusWord, t.items))
      = some (0x0000001A, 2) ∧
    (run .s2vAd { keyed with s2vActive := true, items := 0xFFFFFFFF }).map (fun t => t.items)
      = some 0xFFFFFFFF := by decide

/-- T-S2VCMD-3's end state, for an empty final item. -/
theorem test_s2vFinal_ends :
    (run .s2vFinal { keyed with s2vActive := true, items := 1, d := 9 }).map
        (fun t => (t.statusWord, t.items, t.d)) = some (0x0000000A, 1, 0) := by decide

/-- T-CTRX-3, T-CTRX-5. -/
theorem test_ctrXform_checks :
    status .ctrXform { keyed with src := 0x2000, dst := 0x2008, srclen := 21 } = some 0x0000080E ∧
    status .ctrXform { keyed with dst := 0xFFFFFFFFFFFFFFF0, srclen := 17 } = some 0x0000070E := by decide

/-- T-CTRX-4, and T-ERR-6: RANGE comes before OVERLAP. -/
theorem test_ctrXform_edges :
    status .ctrXform { keyed with src := 0x2000, dst := 0x2001 } = some 0x0000000A ∧
    status .ctrXform { keyed with src := 0xFFFFFFFFFFFFFFFE, srclen := 2, dst := 0xFFFFFFFFFFFFFFFF }
      = some 0x0000070E := by decide

/-- T-IVV-1, T-IVV-2, T-IVV-3, T-IVV-4. -/
theorem test_ivVerify :
    status .ivVerify State.reset = some 0x00000022 ∧
    status .ivVerify { keyed with v := 0xadd51fb60031abade7bc4a4fbed263c8, ivref := 0xadd51fb60031abade7bc4a4fbed263c8 }
      = some 0x0000002A ∧
    status .ivVerify { keyed with v := 0xadd51fb60031abade7bc4a4fbed263c8, ivref := 0xadd51fb60031abade7bc4a4fbed263c9 }
      = some 0x0000030E ∧
    status .ivVerify { keyed with v := 0xadd51fb60031abade7bc4a4fbed263c8, ivref := 0xacd51fb60031abade7bc4a4fbed263c8 }
      = some 0x0000030E := by decide

/-- The error cases of SIV_ENCRYPT under T-ENC. -/
theorem test_sivEncrypt_checks :
    status .sivEncrypt State.reset = some 0x00000406 ∧
    status .sivEncrypt { keyed with src := 0xFFFFFFFFFFFFFFF0, srclen := 0x20 } = some 0x0000070E ∧
    status .sivEncrypt { keyed with src := 0x1000, dst := 0x1008, srclen := 21 } = some 0x0000080E ∧
    status .sivEncrypt { keyed with dst := 1, srclen := 0xFFFFFFFFFFFFFFF0 } = some 0x0000070E := by decide

/-- T-DEC-3, T-DEC-4, T-DEC-5, T-ERR-5. -/
theorem test_sivDecrypt_checks :
    status .sivDecrypt { keyed with srclen := 15 } = some 0x0000020E ∧
    status .sivDecrypt keyed = some 0x0000020E ∧
    status .sivDecrypt { State.reset with srclen := 15 } = some 0x00000406 ∧
    status .sivDecrypt { keyed with srclen := 15, src := 0xFFFFFFFFFFFFFFFF } = some 0x0000020E := by decide

/-! ### The CSR port and resets -/

/-- The state after one turn of the outside world. -/
def turned (x : Input) (s : State) : Option State :=
  match step { s with inbox := [x] } with
  | .next t => some t
  | _ => none

/-- T-ERR-1, T-ERR-2: an illegal word completes with ILLEGAL_CMD. -/
theorem test_illegal_words :
    (turned .engineTurn (State.accept 0x00000003 State.reset)).map State.statusWord = some 0x00000506 ∧
    (turned .engineTurn (State.accept 0x00000110 State.reset)).map State.statusWord = some 0x00000506 := by decide

/-- T-ERR-8. -/
theorem test_status_w1c :
    (turned (.csrWrite 0x008 4 0x4) { keyed with done := true, err := true, errCode := .authFailed }).map
      State.statusWord = some 0x0000000A := by decide

/-- T-ERR-10: a CMD write and an operand write while BUSY = 1 are dropped. -/
theorem test_busy_drops :
    (turned (.csrWrite 0x020 4 5) (State.accept 0x30 keyed)).map (fun t => (t.src, t.ovr, t.stage))
      = some (0, true, .run 0x30) ∧
    (turned (.csrWrite 0x00C 4 0x01) (State.accept 0x30 keyed)).map (fun t => (t.ovr, t.stage))
      = some (true, .run 0x30) := by decide

/-- T-ERR-11, T-ERR-12. -/
theorem test_bad_and_reserved_access :
    (turned (.csrWrite 0x010 2 0x1234) keyed).map (fun t => (t.resp, t.keylen)) = some (.slvErr, 0) ∧
    (turned (.csrWrite 0x002 4 0x1234) keyed).map (fun t => t.resp) = some .slvErr ∧
    (turned (.csrRead 0x01C 4) keyed).map (fun t => t.resp) = some (.data 0) := by decide

/-- T-KEY-10, and ID. -/
theorem test_reads :
    (turned (.csrRead 0x000 4) State.reset).map (fun t => t.resp) = some (.data 0x53325601) ∧
    (turned (.csrRead 0x014 4) State.reset).map (fun t => t.resp) = some (.data 0x40) ∧
    (turned (.csrRead 0x050 4) { State.reset with keyW := stagedKey }).map (fun t => t.resp) = some (.data 0) := by
  decide

/-- T-RST-3: a soft reset while idle; bit 0 of the write is irrelevant. -/
theorem test_soft_reset_idle :
    (turned (.csrWrite 0x004 4 0x3) { keyed with irqEn := true, keylen := 64, v := 1 }).map
      (fun t => (t.statusWord, t.ctrlWord, t.keylen, t.v)) = some (0, 0, 0, 0) := by decide

/-- T-RST-4: a soft reset of a running command never sets DONE. -/
theorem test_soft_reset_busy :
    (turned .engineTurn { State.accept 0x01 { keyed with keylen := 64 } with srPending := true }).map
      (fun t => (t.statusWord, t.stage, t.srPending)) = some (0, .idle, false) := by decide

/-- T-ERR-9. -/
theorem test_irq :
    (run .nop { State.reset with irqEn := true }).map (fun t => (t.irq, (t.writeStatus 0x2).irq))
      = some (true, false) := by decide

/-- R121's example. -/
theorem test_script_cmd : scriptCmd .sivEncrypt = [.csrWrite 0x00C 4 0x00000030] := by decide

/-- The first two writes of `key 00 01 .. 3f` in program P1. -/
theorem test_script_key :
    (scriptKey ((List.range 64).map (BitVec.ofNat 8))).take 2
      = [.csrWrite 0x050 4 0x03020100, .csrWrite 0x054 4 0x07060504] := by decide

/-- `withFetchWord` makes the very next step run the word, from reset. -/
theorem test_withFetchWord_runs :
    (match step (State.reset.withFetchWord 32 0x02) with
      | .next t => some (t.statusWord, t.inbox)
      | _ => none) = some (0x00000002, []) := by decide

/-! ### Memory -/

/-- A write of what an unlisted address reads as removes the entry. -/
theorem test_memory_canonical :
    Memory.write (Memory.write [] 5 7) 5 0 = [] ∧
    Memory.writeBytes [] 3 [1, 0, 2] = [(3, 1), (5, 2)] ∧
    Memory.readBytes [(3, 1), (5, 2)] 2 4 = [0, 1, 0, 2] ∧
    Memory.wf [(5, 2), (3, 1)] = false ∧ Memory.wf [(3, 0)] = false ∧ Memory.wf [(2 ^ 64, 1)] = false := by decide

/-- The boundary values of the range and overlap tests (R87, R239). -/
theorem test_spans :
    Span.inRange ⟨2 ^ 64 - 1, 1⟩ = true ∧ Span.inRange ⟨2 ^ 64 - 1, 2⟩ = false ∧
    Span.overlaps ⟨0, 4⟩ ⟨4, 4⟩ = false ∧ Span.overlaps ⟨0, 5⟩ ⟨4, 4⟩ = true ∧
    Span.overlaps ⟨4, 0⟩ ⟨0, 8⟩ = false := by decide

/-- R98: maintenance reaches the bytes of its range, and in pieces as well as in one. -/
theorem test_cache_maintenance :
    let s : State := { State.reset with hostDirty := [4, 5], hostStale := [(4, 1), (5, 2)] }
    (s.cacheClean ⟨3, 4⟩).hostDirty = [] ∧ (s.cacheClean ⟨3, 4⟩).hostStale = s.hostStale ∧
    ((s.cacheClean ⟨4, 1⟩).cacheClean ⟨5, 1⟩).hostDirty = [] ∧
    ((s.cacheInvalidate ⟨4, 1⟩).cacheInvalidate ⟨5, 1⟩).hostStale = [] := by
  simp [State.cacheClean, State.cacheInvalidate, Span.onLine, Span.addrs, List.range_succ, List.filter_filter]

/-- R98: a neighbour of the output not written back, in its line, can be evicted over the engine's writes; a neighbour of
an input cannot. -/
theorem test_line_of_output (h : Config.cacheLine 15 = Config.cacheLine 16) (hc : Config.dmaCoherent = false)
    (h9 : Config.cacheLine 15 ≠ Config.cacheLine 90) :
    let s : State := { State.reset with hostDirty := [15] }
    s.hazard [] ⟨16, 1⟩ = true ∧ s.hazard [⟨16, 1⟩] ⟨90, 1⟩ = false := by
  refine ⟨(State.hazard_iff _ _ _).2 (.inr (.inr ⟨hc, 15, by simp, .inl ⟨16, by decide, h.symm⟩⟩)), ?_⟩
  rw [Bool.eq_false_iff, Ne, State.hazard_iff]
  rintro (hr | ⟨y, -, dev, hd, -⟩ | ⟨-, a, ha, ⟨b, hb, hl⟩ | ⟨y, hy, hya⟩⟩)
  · cases hr
  · cases hd
  · obtain rfl := List.mem_singleton.1 ha
    have : b = 90 := by have h1 := hb.1; have h2 := hb.2; simp only at h1 h2; omega
    exact h9 (this ▸ hl).symm
  · obtain rfl := List.mem_singleton.1 ha
    obtain rfl := List.mem_singleton.1 hy
    exact absurd hya (by decide)

/-- R98: an engine write leaves a copy of the old value of each byte of its range. -/
theorem test_stale_copies :
    (State.dmaWrite 7 [1, 2] { State.reset with mem := [(8, 5)] }).hostStale = [(7, 0), (8, 5)] := by decide

/-- The accesses of the bus oracle: a range of length 0 takes no answer, and none follows an error. -/
theorem test_bus :
    busFails [0, 3] [true] = true ∧ busFails [0, 0] [true] = false ∧ busRest [2, 3] [true, false] = [false] ∧
    busFails [2] [] = false := by decide

/-! ### Witnesses: for each statement with hypotheses, a state and operands that meet them all -/

/-- An address whose next 2^16 bytes do not touch the CSR window, wherever the platform maps that. -/
def clearBase : DWord := if Config.csrBase.toNat < 2 ^ 62 then 0x8000000000000000 else 0x10000

theorem clearBase_cases :
    (Config.csrBase.toNat < 2 ^ 62 ∧ clearBase.toNat = 2 ^ 63) ∨
      (2 ^ 62 ≤ Config.csrBase.toNat ∧ clearBase.toNat = 2 ^ 16) := by
  unfold clearBase
  by_cases h : Config.csrBase.toNat < 2 ^ 62
  · left; rw [if_pos h]; exact ⟨h, rfl⟩
  · right; rw [if_neg h]; exact ⟨by omega, rfl⟩

/-- Nothing that starts in the 2^15 bytes at `clearBase` and is no longer than that touches the window. -/
theorem clear_of_window {x : Span} (h1 : clearBase.toNat ≤ x.base) (h2 : x.base + x.len ≤ clearBase.toNat + 2 ^ 16) :
    x.overlaps windowSpan = false := by
  rw [Bool.eq_false_iff, Ne, Span.overlaps_iff]
  rcases clearBase_cases with ⟨h, h'⟩ | ⟨h, h'⟩ <;> simp only [windowSpan] <;> omega

theorem empty_clear (a : Nat) : Span.overlaps ⟨a, 0⟩ windowSpan = false := by simp [Span.overlaps]

theorem clearBase_add (k : DWord) (hk : k.toNat < 2 ^ 16) : (clearBase + k).toNat = clearBase.toNat + k.toNat := by
  rw [BitVec.toNat_add, Nat.mod_eq_of_lt]
  rcases clearBase_cases with ⟨-, h⟩ | ⟨-, h⟩ <;> omega

/-- A keyed engine in a sequence, an item of 3 bytes, a message of 21 bytes and room for the output, clear of the
window. -/
def ready : State :=
  { keyed with
    s2vActive := true, src := clearBase, srclen := 21, aad := clearBase + 0x100, aadlen := 3
    dst := clearBase + 0x200 }

theorem ready_src : ready.srcSpan = ⟨clearBase.toNat, 21⟩ := rfl
theorem ready_aad : ready.aadSpan = ⟨clearBase.toNat + 0x100, 3⟩ := by
  show Span.mk (clearBase + 0x100).toNat 3 = _
  rw [clearBase_add _ (by decide)]; rfl
theorem ready_dst : ready.dst.toNat = clearBase.toNat + 0x200 := clearBase_add 0x200 (by decide)
theorem ready_ctr : ready.ctrDst = ⟨clearBase.toNat + 0x200, 21⟩ := by
  show Span.mk ready.dst.toNat 21 = _; rw [ready_dst]
theorem ready_enc : ready.encDst = ⟨clearBase.toNat + 0x200, 37⟩ := by
  show Span.mk ready.dst.toNat 37 = _; rw [ready_dst]
theorem ready_dec : ready.decDst = ⟨clearBase.toNat + 0x200, 5⟩ := by
  show Span.mk ready.dst.toNat 5 = _; rw [ready_dst]

theorem clear_small (o n : Nat) (h : o + n ≤ 2 ^ 16) : Span.overlaps ⟨clearBase.toNat + o, n⟩ windowSpan = false :=
  clear_of_window (by simp) (by simp only; omega)

theorem small_inRange (o n : Nat) (h : o + n ≤ 2 ^ 16) : Span.inRange ⟨clearBase.toNat + o, n⟩ = true := by
  rw [Span.inRange_iff]
  rcases clearBase_cases with ⟨-, h'⟩ | ⟨-, h'⟩ <;> simp only <;> omega

theorem small_apart (o n o' n' : Nat) (h : o + n ≤ o' ∨ o' + n' ≤ o) :
    Span.overlaps ⟨clearBase.toNat + o, n⟩ ⟨clearBase.toNat + o', n'⟩ = false := by
  rw [Bool.eq_false_iff, Ne, Span.overlaps_iff]
  simp only
  omega

theorem clear_base (n : Nat) (h : n ≤ 2 ^ 16) : Span.overlaps ⟨clearBase.toNat, n⟩ windowSpan = false :=
  clear_of_window (Nat.le_refl _) (by simp only; omega)

theorem base_inRange (n : Nat) (h : n ≤ 2 ^ 16) : Span.inRange ⟨clearBase.toNat, n⟩ = true := by
  rw [Span.inRange_iff]
  rcases clearBase_cases with ⟨-, h'⟩ | ⟨-, h'⟩ <;> simp only <;> omega

theorem ready_src' : ready.srcSpan = ⟨clearBase.toNat + 0, 21⟩ := rfl

/-- Every command passes its pre-checks in `ready` but KEY_LOAD, whose KEYLEN is 0. -/
theorem ready_passes (i : Instr) (h : i ≠ .keyLoad) : ready.preCheck i = none := by
  have hs := small_inRange 0 21 (by decide)
  have ha := small_inRange 0x100 3 (by decide)
  cases i with
  | keyLoad => exact absurd rfl h
  | nop => rfl
  | keyClear => rfl
  | ivVerify => rfl
  | s2vInit => rfl
  | s2vAd => exact (s2vItemCheck_eq_none ready).2 ⟨rfl, rfl, hs⟩
  | s2vFinal => exact (s2vItemCheck_eq_none ready).2 ⟨rfl, rfl, hs⟩
  | ctrXform =>
    refine (ctrCheck_eq_none ready).2 ⟨rfl, ⟨hs, ?_⟩, .inr ?_⟩ <;> rw [ready_ctr]
    · exact small_inRange _ _ (by decide)
    · exact small_apart 0x200 21 0 21 (by decide)
  | sivEncrypt =>
    refine (encCheck_eq_none ready).2 ⟨rfl, ⟨hs, ?_, ?_⟩, ?_, ?_⟩ <;> simp only [ready_enc, ready_aad, ready_src']
    · exact ha
    · exact small_inRange _ _ (by decide)
    · exact small_apart _ _ _ _ (by decide)
    · exact small_apart _ _ _ _ (by decide)
  | sivDecrypt =>
    refine (decCheck_eq_none ready).2 ⟨rfl, by decide, ⟨hs, ?_, ?_⟩, ?_, ?_⟩ <;>
      simp only [ready_dec, ready_aad, ready_src']
    · exact ha
    · exact small_inRange _ _ (by decide)
    · exact small_apart _ _ _ _ (by decide)
    · exact small_apart _ _ _ _ (by decide)

theorem ready_clear (i : Instr) : windowHit (ready.writeSpan i :: ready.readSpans i) = false := by
  have hs := clear_small 0 21 (by decide)
  have ha := clear_small 0x100 3 (by decide)
  have hc := clear_small 0x200 21 (by decide)
  have he := clear_small 0x200 37 (by decide)
  have hd := clear_small 0x200 5 (by decide)
  cases i <;>
    simp only [windowHit, State.writeSpan, State.readSpans, List.any_cons, List.any_nil, ready_src', ready_aad, ready_ctr,
      ready_enc, ready_dec, hs, ha, hc, he, hd, empty_clear, Bool.or_false]

/-- No command is disturbed in `ready`. -/
theorem ready_undisturbed (i : Instr) : ready.Undisturbed i := ⟨ready_clear i, by cases i <;> rfl⟩

/-- `ready` running the word of a command. -/
def running (i : Instr) : State := State.accept (encode i) ready

theorem witness_StepRunsDecodedCommand :
    ((running .sivEncrypt).stage = .run 0x30 ∧ decode 0x30 = .ok .sivEncrypt ∧ (running .sivEncrypt).srPending = false ∧
      (running .sivEncrypt).inbox = []) ∧
    ({ running .sivEncrypt with inbox := [.engineTurn, .hwReset] } : State).inbox = .engineTurn :: [.hwReset] := by
  refine ⟨⟨rfl, by decide, rfl, rfl⟩, rfl⟩

theorem witness_CmdWriteIsAcceptedWhenIdle :
    ∃ s t : State, s.inbox = .csrWrite 0x00C 4 0x30 :: [] ∧ s.srPending = false ∧ s.busy = false ∧
      t.inbox = .csrWrite 0x00C 4 0x30 :: [] ∧ t.srPending = false ∧ t.busy = true :=
  ⟨{ ready with inbox := [.csrWrite 0x00C 4 0x30] }, { running .nop with inbox := [.csrWrite 0x00C 4 0x30] },
    rfl, rfl, rfl, rfl, rfl, rfl⟩

theorem witness_DecodingIsTotal :
    ((0x00000100 : Word).extractLsb' 8 24 ≠ 0) ∧
    ((0xFF : Word).extractLsb' 0 8 ∉
      ([0x00, 0x01, 0x02, 0x10, 0x11, 0x12, 0x20, 0x21, 0x30, 0x31] : List (BitVec 8))) ∧
    ((0x31 : Word).extractLsb' 8 24 = 0 ∧ (0x31 : Word).extractLsb' 0 8 ∈
      ([0x00, 0x01, 0x02, 0x10, 0x11, 0x12, 0x20, 0x21, 0x30, 0x31] : List (BitVec 8))) := by decide

theorem witness_IllegalWordHasNoOtherEffect :
    ∃ s t : State, s.stage = .run 0x03 ∧ s.srPending = false ∧ s.engineNext [] ∧
      t.stage = .run 0x03 ∧ t.srPending = false ∧ t.engineNext [.hwReset] ∧ t.inbox ≠ [] ∧
      (0x03 : Word).extractLsb' 0 8 ∉
        ([0x00, 0x01, 0x02, 0x10, 0x11, 0x12, 0x20, 0x21, 0x30, 0x31] : List (BitVec 8)) :=
  ⟨State.accept 0x03 ready, { State.accept 0x03 ready with inbox := [.engineTurn, .hwReset] }, rfl, rfl, .inl ⟨rfl, rfl⟩,
    rfl, rfl, .inr rfl, by decide, by decide⟩

/-- An empty queue and a queued turn, idle and busy. -/
theorem witness_EngineTurnHoldsOrCompletes :
    (ready.engineNext [] ∧ ready.busy = false) ∧
    ((running .sivDecrypt).engineNext [] ∧ (running .sivDecrypt).busy = true ∧ (running .sivDecrypt).srPending = false) ∧
    ({ ready with inbox := [.engineTurn, .hwReset] } : State).engineNext [.hwReset] ∧
    ({ running .sivDecrypt with inbox := [.engineTurn, .hwReset] } : State).engineNext [.hwReset] :=
  ⟨⟨.inl ⟨rfl, rfl⟩, rfl⟩, ⟨.inl ⟨rfl, rfl⟩, rfl, rfl⟩, .inr rfl, .inr rfl⟩

theorem witness_NopOnlyCompletes : ∃ s : State, s.irqEn = true := ⟨{ ready with irqEn := true }, rfl⟩

theorem witness_KeyLoadSplitsOrDestroysKey :
    ∃ s t u : State, s.keylen = 64 ∧ t.keylen = 63 ∧ t.keylen ≠ 64 ∧ u.keylen = 65 ∧ u.keylen ≠ 64 :=
  ⟨{ keyed with keylen := 64 }, { keyed with keylen := 63 }, { keyed with keylen := 65 }, rfl, rfl, by decide, rfl,
    by decide⟩

theorem witness_FinalItemIsPaddedOrXored :
    (List.replicate 15 (0x11 : Byte)).length ≤ 15 ∧ 16 ≤ (List.replicate 16 (0x11 : Byte)).length ∧
    (0 < (List.replicate 17 (0x11 : Byte)).length - 16) ∧
    (List.replicate 16 (0x11 : Byte))[16 - 16 + 15]? = some 0x11 := by decide

theorem witness_S2vInitSeedsTheChain : ready.keyValid = true ∧ State.reset.keyValid = false := ⟨rfl, rfl⟩

/-- The last clause just past the top of the address space (T-S2VCMD-5). -/
theorem witness_S2vItemPreChecksInOrder :
    State.reset.keyValid = false ∧ (keyed.keyValid = true ∧ keyed.s2vActive = false) ∧
    ∃ s : State, s.keyValid = true ∧ s.s2vActive = true ∧ s.src.toNat + s.srclen.toNat = 2 ^ 64 + 1 :=
  ⟨rfl, ⟨rfl, rfl⟩, { keyed with s2vActive := true, src := 0xFFFFFFFFFFFFFFFF, srclen := 2 }, rfl, rfl, by decide⟩

theorem ready_item : ready.src.toNat + ready.srclen.toNat ≤ 2 ^ 64 :=
  (Span.inRange_iff _).1 (small_inRange 0 21 (by decide))

theorem witness_S2vAdAbsorbsItem :
    ready.keyValid = true ∧ ready.s2vActive = true ∧ ready.src.toNat + ready.srclen.toNat ≤ 2 ^ 64 ∧
      ready.Undisturbed .s2vAd ∧ busFails [ready.srclen.toNat] ready.busAnswers = false :=
  ⟨rfl, rfl, ready_item, ready_undisturbed _, rfl⟩

theorem witness_S2vFinalWritesSyntheticIv :
    ready.keyValid = true ∧ ready.s2vActive = true ∧ ready.src.toNat + ready.srclen.toNat ≤ 2 ^ 64 ∧
      ready.Undisturbed .s2vFinal ∧ busFails [ready.srclen.toNat] ready.busAnswers = false :=
  ⟨rfl, rfl, ready_item, ready_undisturbed _, rfl⟩

/-- `ready` where the bus answers the first access with an error. -/
def failing : State := { ready with busAnswers := [true] }

/-- R209, R240: pass 1 of SIV_DECRYPT meets a bus error, so there is no byte it may have written. -/
theorem test_no_output_after_pass1_error : failing.mayWrite .sivDecrypt = [] ∧ failing.output .sivDecrypt = [] := by
  have h : failing.output .sivDecrypt = [] := rfl
  refine ⟨?_, h⟩
  have hr : failing.isRacing .sivDecrypt = false := by
    rw [State.isRacing, show failing.hazard (failing.readSpans .sivDecrypt) (failing.writeSpan .sivDecrypt) = false from rfl,
      Bool.and_false]
  unfold State.mayWrite
  rw [hr, h]
  split <;> rfl

theorem failing_undisturbed (i : Instr) : failing.Undisturbed i := ⟨ready_clear i, by cases i <;> rfl⟩

theorem witness_S2vBusErrorEndsTheSequence :
    failing.keyValid = true ∧ failing.s2vActive = true ∧ failing.src.toNat + failing.srclen.toNat ≤ 2 ^ 64 ∧
      failing.Undisturbed .s2vAd ∧ failing.Undisturbed .s2vFinal ∧
      busFails [failing.srclen.toNat] failing.busAnswers = true :=
  ⟨rfl, rfl, ready_item, failing_undisturbed _, failing_undisturbed _, rfl⟩

/-- Two associated-data items, the second empty, and a final item. -/
theorem witness_S2vCommandsComputeS2v :
    keyed.keyValid = true ∧ keyed.devices = [] ∧ keyed.hostDirty = [] ∧ (∀ b ∈ keyed.busAnswers, b = false) ∧
      ∀ x ∈ (clearBase, (21 : DWord)) :: [(clearBase, (3 : DWord)), (clearBase, (0 : DWord))],
        x.1.toNat + x.2.toNat ≤ 2 ^ 64 ∧ Span.overlaps ⟨x.1.toNat, x.2.toNat⟩ windowSpan = false := by
  refine ⟨rfl, rfl, rfl, by decide, fun x hx => ?_⟩
  simp only [List.mem_cons, List.not_mem_nil, or_false] at hx
  rcases hx with rfl | rfl | rfl
  · exact ⟨(Span.inRange_iff _).1 (small_inRange 0 21 (by decide)), clear_small 0 21 (by decide)⟩
  · exact ⟨(Span.inRange_iff _).1 (small_inRange 0 3 (by decide)), clear_small 0 3 (by decide)⟩
  · exact ⟨(Span.inRange_iff _).1 (small_inRange 0 0 (by decide)), clear_small 0 0 (by decide)⟩

/-- What an undisturbed command answers past its pre-checks. -/
theorem ready_runs :
    exec .s2vAd ready = .next (runS2vAd ready) ∧ exec .s2vFinal ready = .next (runS2vFinal ready) ∧
    exec .ctrXform ready = .next (runCtrXform ready) ∧ exec .sivEncrypt ready = .next (runSivEncrypt ready) ∧
    exec .sivDecrypt ready = .next (runSivDecrypt ready) :=
  ⟨dmaCommand_run _ _ (ready_passes .s2vAd (by decide)) (ready_clear _) (ready_undisturbed _).2,
    dmaCommand_run _ _ (ready_passes .s2vFinal (by decide)) (ready_clear _) (ready_undisturbed _).2,
    dmaCommand_run _ _ (ready_passes .ctrXform (by decide)) (ready_clear _) (ready_undisturbed _).2,
    dmaCommand_run _ _ (ready_passes .sivEncrypt (by decide)) (ready_clear _) (ready_undisturbed _).2,
    dmaCommand_run _ _ (ready_passes .sivDecrypt (by decide)) (ready_clear _) (ready_undisturbed _).2⟩

/-- One state and command for each clause: S2V_INIT; S2V_AD; an ending command; a bus error; NOP; a failed pre-check. -/
theorem witness_SequenceEndsExactlyWhereListed :
    (∃ t, exec .s2vInit ready = .next t ∧ ready.errCode = .none ∧ ready.preCheck .s2vInit = none) ∧
    (∃ t, exec .s2vAd ready = .next t ∧ ready.preCheck .s2vAd = none ∧ t.errCode ≠ .busError) ∧
    (∃ t, exec .sivEncrypt ready = .next t ∧ ready.preCheck .sivEncrypt = none) ∧
    (∃ t, exec .s2vAd failing = .next t ∧ failing.errCode = .none ∧ t.errCode = .busError) ∧
    (∃ t, exec .nop ready = .next t) ∧
    (∃ t, exec .sivDecrypt State.reset = .next t ∧ State.reset.preCheck .sivDecrypt = some .noKey) := by
  refine ⟨⟨_, rfl, rfl, rfl⟩, ⟨runS2vAd ready, ready_runs.1, ready_passes _ (by decide), ?_⟩,
    ⟨_, ready_runs.2.2.2.1, ready_passes _ (by decide)⟩, ⟨runS2vAd failing, ?_, rfl, rfl⟩, ⟨_, rfl⟩, ⟨_, rfl, rfl⟩⟩
  · show ErrCode.none ≠ .busError; decide
  exact dmaCommand_run _ _ (ready_passes .s2vAd (by decide)) (ready_clear .s2vAd) (failing_undisturbed .s2vAd).2

theorem witness_CounterNeverWrapsInOneCommand : (2 ^ 60 : Nat) ≤ 2 ^ 60 := Nat.le_refl _

/-- Each clause at a boundary: just past the top, and ranges that share one byte. -/
theorem witness_CtrXformPreChecksInOrder :
    State.reset.keyValid = false ∧
    (∃ s : State, s.keyValid = true ∧ s.dst.toNat + s.srclen.toNat = 2 ^ 64 + 1) ∧
    (∃ s : State, s.keyValid = true ∧ s.src.toNat + s.srclen.toNat ≤ 2 ^ 64 ∧ s.dst.toNat + s.srclen.toNat ≤ 2 ^ 64 ∧
      s.dst ≠ s.src ∧ 0 < s.srclen.toNat ∧ s.dst.toNat < s.src.toNat + s.srclen.toNat ∧
      s.src.toNat < s.dst.toNat + s.srclen.toNat) :=
  ⟨rfl, ⟨{ keyed with dst := 0xFFFFFFFFFFFFFFF0, srclen := 17 }, rfl, by decide⟩,
    ⟨{ keyed with src := 0x2000, dst := 0x2014, srclen := 21 }, rfl, by decide, by decide, by decide, by decide,
      by decide, by decide⟩⟩

theorem witness_CtrXformTransformsTheBuffer :
    ready.keyValid = true ∧ ready.src.toNat + ready.srclen.toNat ≤ 2 ^ 64 ∧
      ready.dst.toNat + ready.srclen.toNat ≤ 2 ^ 64 ∧ ready.src.toNat + ready.srclen.toNat ≤ ready.dst.toNat ∧
      Memory.wf ready.mem = true ∧ ready.Undisturbed .ctrXform ∧
      busFails [ready.srclen.toNat, ready.srclen.toNat] ready.busAnswers = false := by
  refine ⟨rfl, ready_item, ?_, ?_, rfl, ready_undisturbed _, rfl⟩
  · have h := (Span.inRange_iff _).1 (small_inRange 0x200 21 (by decide))
    have hl : ready.srclen.toNat = 21 := rfl
    simp only at h
    rw [ready_dst, hl]
    omega
  · rw [ready_dst]
    have hl : ready.src.toNat + ready.srclen.toNat = clearBase.toNat + 21 := rfl
    rw [hl]
    omega

/-- The in-place form (R85). -/
theorem witness_CtrXformInPlace : ∃ s : State, s.keyValid = true ∧ s.dst = s.src ∧ s.srclen = 0 :=
  ⟨{ keyed with src := 0x3000, dst := 0x3000 }, rfl, rfl, rfl⟩

theorem witness_IvVerifyComparesWholeBlocks :
    State.reset.v = State.reset.ivref ∧ ({ State.reset with v := 1 } : State).v ≠ ({ State.reset with v := 1 } : State).ivref :=
  ⟨rfl, by decide⟩

/-- Each clause for SIV_DECRYPT, and the ones of SIV_ENCRYPT that differ. -/
theorem witness_CompoundPreChecksInOrder :
    State.reset.keyValid = false ∧ keyed.keyValid = true ∧
    ({ keyed with srclen := 15 } : State).srclen.toNat < 16 ∧
    (∃ s : State, s.keyValid = true ∧ ¬ s.srclen.toNat < 16 ∧ s.dst.toNat + (s.srclen.toNat - 16) = 2 ^ 64 + 1) ∧
    (∃ s : State, s.keyValid = true ∧ ¬ s.srclen.toNat < 16 ∧
      ¬ (2 ^ 64 < s.src.toNat + s.srclen.toNat ∨ 2 ^ 64 < s.aad.toNat + s.aadlen.toNat ∨
        2 ^ 64 < s.dst.toNat + (s.srclen.toNat - 16)) ∧
      Span.overlaps ⟨s.dst.toNat, s.srclen.toNat - 16⟩ ⟨s.src.toNat, s.srclen.toNat⟩ = true) ∧
    (∃ s : State, s.keyValid = true ∧
      ¬ (2 ^ 64 < s.src.toNat + s.srclen.toNat ∨ 2 ^ 64 < s.aad.toNat + s.aadlen.toNat ∨
        2 ^ 64 < s.dst.toNat + (16 + s.srclen.toNat)) ∧
      Span.overlaps ⟨s.dst.toNat, 16 + s.srclen.toNat⟩ ⟨s.aad.toNat, s.aadlen.toNat⟩ = true) :=
  ⟨rfl, rfl, by decide, ⟨{ keyed with dst := 0xFFFFFFFFFFFFFFFF, srclen := 18 }, rfl, by decide, by decide⟩,
    ⟨{ keyed with src := 0x1000, dst := 0x1000, srclen := 17 }, rfl, by decide, by decide, by decide⟩,
    ⟨{ keyed with src := 0x1000, dst := 0x2000, aad := 0x200F, aadlen := 1 }, rfl, by decide, by decide⟩⟩

theorem witness_SivEncryptWritesIvThenBody :
    ready.preCheck .sivEncrypt = none ∧ Memory.wf ready.mem = true ∧ ready.Undisturbed .sivEncrypt ∧
      busFails [ready.aadlen.toNat, ready.srclen.toNat, ready.srclen.toNat, 16 + ready.srclen.toNat]
        ready.busAnswers = false :=
  ⟨ready_passes _ (by decide), rfl, ready_undisturbed _, rfl⟩

/-- The IV of an empty message with an empty item, under the zero key. -/
def emptyIv : Block := s2v Config.mac zeroKey [[]] []

/-- A 16-byte input at `clearBase`, with an empty item. -/
def sealed (c : Bytes) : State :=
  { ready with srclen := 16, aadlen := 0, mem := Memory.writeBytes [] clearBase.toNat c }

theorem base16 : clearBase.toNat + 16 ≤ dmaTop := (Span.inRange_iff _).1 (base_inRange 16 (by decide))

theorem sealed_wf (c : Bytes) (h : c.length = 16) : Memory.wf (sealed c).mem = true := by
  have hb := base16
  exact Memory.wf_writeBytes (m := []) rfl (by rw [h]; exact hb)

theorem sealed_input (c : Bytes) (h : c.length = 16) :
    Memory.readBytes (sealed c).mem (sealed c).src.toNat (sealed c).srclen.toNat = c := by
  have hb := base16
  have h' := Memory.readBytes_writeBytes (m := []) (a := clearBase.toNat) (bs := c) rfl (by rw [h]; exact hb)
  rw [h] at h'
  exact h'

theorem sealed_sivDec (c : Bytes) (h : c.length = 16) :
    sivDec Config.mac Config.e (sealed c).k1 (sealed c).k2
      (Memory.readBytes (sealed c).mem (sealed c).aad.toNat (sealed c).aadlen.toNat)
      (Memory.readBytes (sealed c).mem (sealed c).src.toNat (sealed c).srclen.toNat)
    = if ctEq emptyIv (bytesBlock c) then some [] else none := by
  rw [sealed_input c h]
  show sivDec Config.mac Config.e zeroKey zeroKey [] c = _
  unfold sivDec
  simp only [List.take_of_length_le (Nat.le_of_eq h), List.drop_of_length_le (Nat.le_of_eq h)]
  rfl

theorem sealed_passes (c : Bytes) : (sealed c).preCheck .sivDecrypt = none := by
  have hd : (sealed c).decDst = ⟨clearBase.toNat + 0x200, 0⟩ := by
    show Span.mk ready.dst.toNat 0 = _
    rw [ready_dst]
  have ha : (sealed c).aadSpan = ⟨clearBase.toNat + 0x100, 0⟩ := by
    show Span.mk ready.aadSpan.base 0 = _
    rw [ready_aad]
  have hs : (sealed c).srcSpan = ⟨clearBase.toNat, 16⟩ := rfl
  refine (decCheck_eq_none (sealed c)).2 ⟨rfl, by show 16 ≤ (16 : DWord).toNat; decide, ?_, ?_⟩ <;> rw [hd, ha, hs]
  · exact ⟨base_inRange 16 (by decide), small_inRange _ _ (by decide), small_inRange _ _ (by decide)⟩
  · exact ⟨by simp [Span.overlaps], by simp [Span.overlaps]⟩

theorem sealed_undisturbed (c : Bytes) : (sealed c).Undisturbed .sivDecrypt := by
  refine ⟨?_, rfl⟩
  have hd : (sealed c).writeSpan .sivDecrypt = ⟨ready.dst.toNat, 0⟩ := rfl
  have hr : (sealed c).readSpans .sivDecrypt = [⟨clearBase.toNat, 16⟩, ⟨ready.aadSpan.base, 0⟩] := rfl
  rw [hd, hr]
  simp only [windowHit, List.any_cons, List.any_nil, empty_clear, clear_base 16 (by decide), Bool.or_false]

/-- An authentic input: the IV and an empty body. -/
def authentic : State := sealed (blockBytes emptyIv)

/-- The same with the last bit flipped. -/
def forged : State := sealed (blockBytes (emptyIv ^^^ 1))

theorem witness_SivDecryptWritesAuthenticPlaintext :
    authentic.preCheck .sivDecrypt = none ∧ Memory.wf authentic.mem = true ∧ authentic.Undisturbed .sivDecrypt ∧
      (∀ b ∈ authentic.busAnswers, b = false) ∧
      sivDec Config.mac Config.e authentic.k1 authentic.k2
        (Memory.readBytes authentic.mem authentic.aad.toNat authentic.aadlen.toNat)
        (Memory.readBytes authentic.mem authentic.src.toNat authentic.srclen.toNat) = some [] := by
  refine ⟨sealed_passes _, sealed_wf _ (length_blockBytes _), sealed_undisturbed _, fun b hb => ?_, ?_⟩
  · cases hb
  · refine (sealed_sivDec _ (length_blockBytes _)).trans ?_
    rw [bytesBlock_blockBytes, if_pos (ctEq_self _)]

theorem forged_ctEq : ctEq emptyIv (bytesBlock (blockBytes (emptyIv ^^^ 1))) = false := by
  rw [bytesBlock_blockBytes, Bool.eq_false_iff, Ne, ctEq_iff]
  intro h
  have h1 := congrArg (emptyIv ^^^ ·) h
  simp only [← BitVec.xor_assoc, BitVec.xor_self, BitVec.zero_xor] at h1
  exact absurd h1 (by decide)

theorem forged_sivDec :
    sivDec Config.mac Config.e forged.k1 forged.k2
      (Memory.readBytes forged.mem forged.aad.toNat forged.aadlen.toNat)
      (Memory.readBytes forged.mem forged.src.toNat forged.srclen.toNat) = none := by
  refine (sealed_sivDec _ (length_blockBytes _)).trans ?_
  rw [forged_ctEq]
  rfl

theorem witness_SivDecryptMismatchExposesNothing :
    forged.preCheck .sivDecrypt = none ∧ forged.Undisturbed .sivDecrypt ∧ (∀ b ∈ forged.busAnswers, b = false) ∧
      sivDec Config.mac Config.e forged.k1 forged.k2
        (Memory.readBytes forged.mem forged.aad.toNat forged.aadlen.toNat)
        (Memory.readBytes forged.mem forged.src.toNat forged.srclen.toNat) = none := by
  refine ⟨sealed_passes _, sealed_undisturbed _, fun b hb => ?_, forged_sivDec⟩
  cases hb

theorem forged_decMatch : forged.decMatch = false := by
  have h := (State.sivDec_eq forged).symm.trans forged_sivDec
  by_contra hm
  rw [if_pos (by simpa using hm)] at h
  cases h

/-- A mismatch, and a bus error in pass 1. -/
theorem witness_NoPlaintextBeforeMatch :
    (∃ t, exec .sivDecrypt forged = .next t ∧ forged.Undisturbed .sivDecrypt ∧ forged.decMatch = false) ∧
    (∃ t, exec .sivDecrypt failing = .next t ∧ failing.Undisturbed .sivDecrypt ∧
      busFails failing.decPass1 failing.busAnswers = true) :=
  ⟨⟨_, dmaCommand_run _ _ (sealed_passes _) (sealed_undisturbed _).1 (sealed_undisturbed _).2, sealed_undisturbed _,
      forged_decMatch⟩,
    ⟨_, dmaCommand_run _ _ (ready_passes .sivDecrypt (by decide)) (ready_clear .sivDecrypt) (failing_undisturbed _).2,
      failing_undisturbed _, rfl⟩⟩

/-- The output of SIV_ENCRYPT from `ready` is decrypted to `clearBase + 0x400`. -/
theorem witness_EncryptThenDecryptRestoresTheMessage :
    ready.preCheck .sivEncrypt = none ∧ Memory.wf ready.mem = true ∧ ready.devices = [] ∧ ready.hostDirty = [] ∧
      (∀ b ∈ ready.busAnswers, b = false) ∧ ready.raced = false ∧
      windowHit [ready.encDst, ready.aadSpan, ready.srcSpan] = false ∧
      ∃ t, exec .sivEncrypt ready = .next t ∧
        let r : State := State.accept (encode .sivDecrypt)
          { t with src := ready.dst, srclen := ready.srclen + 16, dst := clearBase + 0x400 }
        r.preCheck .sivDecrypt = none ∧ windowHit [r.decDst] = false := by
  have h400 : (clearBase + 0x400).toNat = clearBase.toNat + 0x400 := clearBase_add _ (by decide)
  refine ⟨ready_passes _ (by decide), rfl, rfl, rfl, (fun b hb => by cases hb), rfl, ready_clear .sivEncrypt, _,
    ready_runs.2.2.2.1, ?_⟩
  rw [runSivEncrypt_ok (s := ready) rfl]
  intro r
  have hsrc : r.srcSpan = ⟨clearBase.toNat + 0x200, 37⟩ := by
    show Span.mk ready.dst.toNat (ready.srclen + 16 : DWord).toNat = _
    rw [ready_dst]; rfl
  have haad : r.aadSpan = ⟨clearBase.toNat + 0x100, 3⟩ := ready_aad
  have hdst : r.decDst = ⟨clearBase.toNat + 0x400, 21⟩ := by
    show Span.mk (clearBase + 0x400).toNat ((ready.srclen + 16 : DWord).toNat - 16) = _
    rw [h400]; rfl
  have hlen : 16 ≤ r.srclen.toNat := by show 16 ≤ (ready.srclen + 16 : DWord).toNat; decide
  refine ⟨(decCheck_eq_none r).2 ⟨rfl, hlen, ?_, ?_⟩, ?_⟩ <;> rw [hdst] <;> try rw [hsrc, haad]
  · exact ⟨small_inRange _ _ (by decide), small_inRange _ _ (by decide), small_inRange _ _ (by decide)⟩
  · exact ⟨small_apart _ _ _ _ (by decide), small_apart _ _ _ _ (by decide)⟩
  · simp only [windowHit, List.any_cons, List.any_nil, clear_small 0x400 21 (by decide), Bool.or_false]

theorem witness_CompoundCommandsIgnoreChainState :
    ready.preCheck .sivEncrypt = none ∧ ready.Undisturbed .sivEncrypt ∧ ready.preCheck .sivDecrypt = none ∧
      ready.Undisturbed .sivDecrypt ∧ ∀ b ∈ ready.busAnswers, b = false :=
  ⟨ready_passes _ (by decide), ready_undisturbed _, ready_passes _ (by decide), ready_undisturbed _,
    fun b hb => by cases hb⟩

theorem witness_PreCheckFailureChangesOnlyStatus :
    State.reset.preCheck .sivDecrypt = some .noKey ∧ keyed.preCheck .keyLoad = some .invalidKeySize := ⟨rfl, rfl⟩

/-- Two causes at once: NO_KEY is reported (T-DEC-5). -/
theorem witness_FirstFailingPreCheckIsReported :
    State.reset.preCheck .sivDecrypt = some .noKey ∧ State.reset.cause .sivDecrypt .noKey ∧
      State.reset.cause .sivDecrypt .invalidCiphertext :=
  ⟨rfl, ⟨.inr (.inr (.inr (.inr (.inr rfl)))), rfl⟩, ⟨rfl, by decide⟩⟩

theorem witness_BusErrorLeavesOldOrNewBytes :
    ∃ t, exec .ctrXform failing = .next t ∧ failing.Undisturbed .ctrXform ∧ failing.errCode = .none ∧
      Memory.wf failing.mem = true ∧ t.errCode = .busError := by
  refine ⟨runCtrXform failing,
    dmaCommand_run _ _ (ready_passes .ctrXform (by decide)) (ready_clear .ctrXform) (failing_undisturbed _).2,
    failing_undisturbed _, rfl, rfl, ?_⟩
  rw [runCtrXform_bus (s := failing) rfl]
  rfl

/-- `ready` after another agent stored into a buffer. -/
def racing : State := { ready with raced := true }

theorem witness_RacedCommandStaysInItsRange :
    Instr.usesDma .sivDecrypt ∧ racing.preCheck .sivDecrypt = none ∧
      windowHit (racing.writeSpan .sivDecrypt :: racing.readSpans .sivDecrypt) = false ∧
      racing.hazard (racing.readSpans .sivDecrypt) (racing.writeSpan .sivDecrypt) = true :=
  ⟨.inr (.inr (.inr (.inr rfl))), ready_passes .sivDecrypt (by decide), ready_clear .sivDecrypt, rfl⟩

/-- One item byte that is the first byte of the window. -/
def overWindow : State := { keyed with s2vActive := true, src := Config.csrBase, srclen := 1 }

/-- Both sides of the statement: a buffer over the window, and one clear of it. -/
theorem witness_BufferOverWindowIsRefused :
    overWindow.preCheck .s2vAd = none ∧
      (∃ x ∈ overWindow.writeSpan .s2vAd :: overWindow.readSpans .s2vAd, ∃ a, x.has a ∧ windowSpan.has a) ∧
      exec .s2vAd overWindow = .refused .csrWindowInBuffer ∧ ready.preCheck .s2vAd = none := by
  have hb := Config.csrBase.isLt
  have hp : overWindow.preCheck .s2vAd = none :=
    (s2vItemCheck_eq_none overWindow).2
      ⟨rfl, rfl, (Span.inRange_iff _).2 (by show Config.csrBase.toNat + (1 : DWord).toNat ≤ 2 ^ 64; simp; omega)⟩
  have hx : ∃ a, overWindow.srcSpan.has a ∧ windowSpan.has a := by
    refine ⟨Config.csrBase.toNat, ⟨Nat.le_refl _, ?_⟩, ⟨Nat.le_refl _, ?_⟩⟩
    · show Config.csrBase.toNat < Config.csrBase.toNat + (1 : DWord).toNat
      simp
    · show Config.csrBase.toNat < Config.csrBase.toNat + 0x1000
      omega
  refine ⟨hp, ⟨overWindow.srcSpan, by simp [State.readSpans], hx⟩, ?_, ready_passes _ (by decide)⟩
  have hw : windowHit (overWindow.writeSpan .s2vAd :: overWindow.readSpans .s2vAd) = true := by
    have := (Span.overlaps_iff_shared _ _).2 hx
    simp [windowHit, State.readSpans, this]
  show dmaCommand overWindow.s2vItemCheck _ _ _ _ _ = _
  have hp' : overWindow.s2vItemCheck = none := hp
  rw [hp']
  simp only [dmaCommand]
  exact if_pos hw

theorem witness_CommandsKeepAddressLengthAndControlFields : ∃ t, exec .sivEncrypt ready = .next t := ⟨_, ready_runs.2.2.2.1⟩

theorem witness_CommandsKeepKeyAndResultRegisters :
    ∃ t, exec .ctrXform ready = .next t ∧ ready.Undisturbed .ctrXform :=
  ⟨_, ready_runs.2.2.1, ready_undisturbed _⟩

/-- A command that writes, one that fails its pre-check, and one without an output range. -/
theorem witness_CommandsWriteOnlyTheirOutputRange :
    (∃ t, exec .sivEncrypt ready = .next t) ∧
    (∃ t, exec .sivEncrypt State.reset = .next t ∧ State.reset.preCheck .sivEncrypt = some .noKey) ∧
    (∃ t, exec .s2vAd ready = .next t) :=
  ⟨⟨_, ready_runs.2.2.2.1⟩, ⟨_, rfl, rfl⟩, ⟨_, ready_runs.1⟩⟩

/-- A state that runs KEY_LOAD, with a key and a sequence, meets the invariant, and the step answers a next state. -/
theorem witness_StepKeepsTheEngineInvariant : (running .keyLoad).Inv ∧ ∃ t, step (running .keyLoad) = .next t :=
  ⟨⟨rfl, fun _ => rfl, (fun h => by cases h), (fun h => by cases h), fun _ => rfl, (fun h => by cases h),
      fun _ => ⟨rfl, rfl, rfl, rfl⟩, (fun h => by cases h)⟩, _, rfl⟩

theorem witness_ResetMeetsTheEngineInvariant : (running .keyLoad).Inv := witness_StepKeepsTheEngineInvariant.1

theorem witness_ResetLeavesTheTableValues : ∃ s r : State, s.busy = true ∧ r = s.resetEngine := ⟨running .nop, _, rfl, rfl⟩

theorem witness_SoftResetRequest :
    ∃ s t : State, s.inbox = .csrWrite 0x004 4 0x2 :: [] ∧ (0x2 : Word).getLsbD 1 = true ∧ s.busy = false ∧
      t.inbox = .csrWrite 0x004 4 0x2 :: [] ∧ t.busy = true :=
  ⟨{ ready with inbox := [.csrWrite 0x004 4 0x2] }, { running .nop with inbox := [.csrWrite 0x004 4 0x2] },
    rfl, by decide, rfl, rfl, rfl⟩

/-- A state in which a soft reset aborts SIV_DECRYPT, from one in which its comparison does not match. -/
theorem aborting_of_mismatch (s : State) (hu : s.Undisturbed .sivDecrypt) (hw : Memory.wf s.mem = true)
    (hp : s.preCheck .sivDecrypt = none) (hm : s.decMatch = false) (hi : s.inbox = []) (hd : s.devices = [])
    (hh : s.hostDirty = []) :
    ∃ a : State, a.running = some .sivDecrypt ∧ a.srPending = true ∧ a.inbox = [] ∧ a.Undisturbed .sivDecrypt ∧
      Memory.wf a.mem = true ∧ a.preCheck .sivDecrypt = none ∧ a.decMatch = false := by
  refine ⟨{ State.accept 0x31 s with srPending := true }, rfl, rfl, hi, ⟨hu.1, ?_⟩, hw, hp, hm⟩
  simp [State.hazard, hd, hh]

/-- A hardware reset while idle, one while SIV_ENCRYPT runs, a pending soft reset of an illegal word, a queued turn with a
pending soft reset, a bus error in pass 1 of SIV_DECRYPT, and a SIV_DECRYPT whose comparison does not match. -/
theorem witness_ResetAbortsTheRunningCommand :
    (∃ s : State, s.inbox = .hwReset :: [] ∧ s.running = none ∧ s.busy = false) ∧
    (∃ s : State, s.inbox = .hwReset :: [] ∧ s.running = some .sivEncrypt ∧ s.Undisturbed .sivEncrypt ∧
      Memory.wf s.mem = true) ∧
    (∃ s : State, (s.busy = true ∧ s.srPending = true ∧ s.engineNext []) ∧ s.running = none) ∧
    (∃ s : State, (s.busy = true ∧ s.srPending = true ∧ s.engineNext [.hwReset]) ∧ s.inbox = [.engineTurn, .hwReset] ∧
      s.running = some .sivEncrypt ∧ s.Undisturbed .sivEncrypt ∧ Memory.wf s.mem = true) ∧
    (∃ s : State, s.inbox = .hwReset :: [] ∧ s.running = some .sivDecrypt ∧ s.Undisturbed .sivDecrypt ∧
      Memory.wf s.mem = true ∧ busFails s.decPass1 s.busAnswers = true) ∧
    (∃ s : State, s.running = some .sivDecrypt ∧ s.srPending = true ∧ s.inbox = [] ∧ s.Undisturbed .sivDecrypt ∧
      Memory.wf s.mem = true ∧ s.preCheck .sivDecrypt = none ∧ s.decMatch = false) :=
  ⟨⟨{ ready with inbox := [.hwReset] }, rfl, rfl, rfl⟩,
    ⟨{ running .sivEncrypt with inbox := [.hwReset] }, rfl, rfl, ⟨ready_clear .sivEncrypt, rfl⟩, rfl⟩,
    ⟨{ State.accept 0x03 ready with srPending := true }, ⟨rfl, rfl, .inl ⟨rfl, rfl⟩⟩, rfl⟩,
    ⟨{ running .sivEncrypt with srPending := true, inbox := [.engineTurn, .hwReset] }, ⟨rfl, rfl, .inr rfl⟩, rfl, rfl,
      ⟨ready_clear .sivEncrypt, rfl⟩, rfl⟩,
    ⟨{ State.accept 0x31 failing with inbox := [.hwReset] }, rfl, rfl, ⟨ready_clear .sivDecrypt, rfl⟩, rfl, rfl⟩,
    aborting_of_mismatch forged (sealed_undisturbed _) (sealed_wf _ (length_blockBytes _)) (sealed_passes _)
      forged_decMatch rfl rfl rfl⟩

/-- The first and the last offset of each group, with BUSY = 1, and a CTRL and a STATUS write while idle. -/
theorem witness_ControlWritesAndWritesWhileBusy :
    (({ ready with inbox := [.csrWrite 0x004 4 0x1] } : State).inbox = .csrWrite 0x004 4 0x1 :: [] ∧ ready.busy = false ∧
      (0x1 : Word).getLsbD 1 = false ∧
      ({ ready with inbox := [.csrWrite 0x008 4 0x46] } : State).inbox = .csrWrite 0x008 4 0x46 :: []) ∧
    (running .nop).busy = true ∧
    ∀ off ∈ [0x000, 0x014, 0x018, 0x01C, 0x048, 0x04C, 0x0B0, 0xFFC, 0x00C, 0x010, 0x020, 0x044, 0x050, 0x0AC, 0x004,
      0x008], off % 4 = 0 ∧ off < 0x1000 ∧
        ({ running .nop with inbox := [.csrWrite off 4 0x3] } : State).inbox = .csrWrite off 4 0x3 :: [] :=
  ⟨⟨rfl, rfl, by decide, rfl⟩, rfl, fun off h => ⟨by revert off; decide, by revert off; decide, rfl⟩⟩

/-- Idle and busy, at the first and the last offset of each group. -/
theorem witness_CsrReadsAnswerTheRegisters :
    (running .ctrXform).busy = true ∧ ready.busy = false ∧
    ∀ off ∈ [0x000, 0x018, 0x020, 0x044, 0x048, 0x04C, 0x050 + 4 * 0, 0x050 + 4 * 15, 0x090 + 4 * 0, 0x090 + 4 * 3,
      0x0A0 + 4 * 0, 0x0A0 + 4 * 3], off % 4 = 0 ∧ off < 0x1000 ∧
        ({ running .ctrXform with inbox := [.csrRead off 4] } : State).inbox = .csrRead off 4 :: [] ∧
        ({ ready with inbox := [.csrRead off 4] } : State).inbox = .csrRead off 4 :: [] :=
  ⟨rfl, rfl, fun off h => ⟨by revert off; decide, by revert off; decide, rfl, rfl⟩⟩

/-- A narrow access, a misaligned one, one past the window, and the reserved offsets at their ends. -/
theorem witness_BadCsrAccessGetsErrorResponse :
    ¬ (2 = 4 ∧ 0x010 % 4 = 0 ∧ 0x010 < 0x1000) ∧ ¬ (4 = 4 ∧ 0x002 % 4 = 0 ∧ 0x002 < 0x1000) ∧
    ¬ (4 = 4 ∧ 0x1000 % 4 = 0 ∧ 0x1000 < 0x1000) ∧
    (∀ off ∈ [0x01C, 0x0B0, 0xFFC], off % 4 = 0 ∧ (off = 0x01C ∨ (0x0B0 ≤ off ∧ off < 0x1000))) ∧
    ({ ready with inbox := [.csrWrite 0x01C 4 0] } : State).inbox = .csrWrite 0x01C 4 0 :: [] ∧
    ({ ready with inbox := [.csrRead 0xFFC 4] } : State).inbox = .csrRead 0xFFC 4 :: [] :=
  ⟨by decide, by decide, by decide, by decide, rfl, rfl⟩

/-- The last offset of the map, and the first of each group of words. -/
theorem witness_RegisterMapHasNoAliases :
    ∀ off ∈ [0x000, 0x04C, 0x050, 0x08C, 0x090, 0x09C, 0x0A0, 0x0AC],
      off % 4 = 0 ∧ off < 0x1000 ∧ Csr.ofOffset off ≠ .reserved := by decide

/-- An idle engine, and a write at the first and the last offset of each group of operands. -/
theorem witness_OperandWriteChangesOnlyItsRegister :
    ready.busy = false ∧
    ∀ off ∈ [0x010, 0x020, 0x044, 0x050 + 4 * 0, 0x050 + 4 * 15, 0x090 + 4 * 0, 0x090 + 4 * 3, 0x0A0 + 4 * 0,
      0x0A0 + 4 * 3], ({ ready with inbox := [.csrWrite off 4 0x01020304] } : State).inbox
        = .csrWrite off 4 0x01020304 :: [] := ⟨rfl, fun _ _ => rfl⟩

theorem witness_InterruptIsEnableAndDone :
    (0x2 : Word).getLsbD 1 = true ∧ ((0x1 : Word).getLsbD 1 = false ∧ (0x1 : Word).getLsbD 0 = true) ∧
    ((0x0 : Word).getLsbD 1 = false ∧ (0x0 : Word).getLsbD 0 = false) := by decide

theorem ready_load (n : Nat) (hn : n ≤ 2 ^ 16) (rest : List Input) :
    ∃ t, step { ready with inbox := .memLoad clearBase n :: rest } = .next t := by
  rw [step_of_turn (x := .memLoad clearBase n) (rest := rest) rfl]
  simp only [turn, State.hostLoad]
  rw [checkHostSpan_ok _ (base_inRange n hn) ?_ rfl]
  · exact ⟨_, rfl⟩
  · simp only [windowHit, List.any_cons, List.any_nil, Bool.or_false, clear_base n hn]

/-- A read of KEY_W0, and a load while idle. -/
theorem witness_SecretsCannotBeReadBack :
    (∃ t, step { ready with inbox := [.csrRead 0x050 4] } = .next t) ∧
    (ready.busy = false ∧ ∃ t, step { ready with inbox := [.memLoad clearBase 4] } = .next t) :=
  ⟨⟨_, rfl⟩, rfl, ready_load 4 (by decide) []⟩

/-- A host store and the load of the same range while idle, and a store of another agent while SIV_ENCRYPT runs. -/
theorem witness_StoresChangeOnlyTheirBytes :
    clearBase.toNat + 3 ≤ 2 ^ 64 ∧ windowHit [⟨clearBase.toNat, 3⟩] = false ∧
    (∃ s : State, s.inbox = .memStore clearBase [1, 2, 3] :: .memLoad clearBase 3 :: [] ∧ s.busy = false ∧
      Memory.wf s.mem = true ∧ ∀ dev ∈ s.devices, Span.overlaps ⟨clearBase.toNat, 3⟩ dev = false) ∧
    (∃ s : State, s.inbox = .agentStore clearBase [1, 2, 3] :: [] ∧ s.running = some .sivEncrypt ∧
      Memory.wf s.mem = true ∧ (∀ dev ∈ s.devices, Span.overlaps ⟨clearBase.toNat, 3⟩ dev = false) ∧
      ∀ b ∈ s.hostDirty, ¬ Span.touchesLine ⟨clearBase.toNat, 3⟩ b) := by
  refine ⟨(Span.inRange_iff _).1 (base_inRange 3 (by decide)), ?_,
    ⟨{ ready with inbox := [.memStore clearBase [1, 2, 3], .memLoad clearBase 3] }, rfl, rfl, rfl, (fun d h => by cases h)⟩,
    ⟨{ running .sivEncrypt with inbox := [.agentStore clearBase [1, 2, 3]] }, rfl, rfl, rfl, (fun d h => by cases h),
      (fun b h => by cases h)⟩⟩
  simp only [windowHit, List.any_cons, List.any_nil, Bool.or_false, clear_base 3 (by decide)]

theorem running_store (bs : Bytes) (hn : bs.length ≤ 2 ^ 16) :
    ∃ t, step { running .sivEncrypt with inbox := [.memStore clearBase bs] } = .next t := by
  rw [step_of_turn (x := .memStore clearBase bs) (rest := []) rfl]
  simp only [turn, State.hostStore]
  rw [checkHostSpan_ok _ (base_inRange bs.length hn) ?_ rfl]
  · exact ⟨_, rfl⟩
  · simp only [windowHit, List.any_cons, List.any_nil, Bool.or_false, clear_base bs.length hn]

/-- As `running_store`, for another agent's store. -/
theorem running_agentStore (bs : Bytes) (hn : bs.length ≤ 2 ^ 16) :
    ∃ t, step { running .sivEncrypt with inbox := [.agentStore clearBase bs] } = .next t := by
  rw [step_of_turn (x := .agentStore clearBase bs) (rest := []) rfl]
  simp only [turn, State.agentStore]
  rw [checkHostSpan_ok _ (base_inRange bs.length hn) ?_ rfl]
  · exact ⟨_, rfl⟩
  · simp only [windowHit, List.any_cons, List.any_nil, Bool.or_false, clear_base bs.length hn]

/-- A store of the first message byte while SIV_ENCRYPT runs, by the host and by another agent, and maintenance of a
range whose first byte is the last message byte, not written back. -/
theorem witness_LateHostWriteToRunningBufferIsARace :
    (∃ s t : State, s.inbox = .memStore clearBase [1] :: [] ∧ s.running = some .sivEncrypt ∧ step s = .next t) ∧
    (∃ s t : State, s.inbox = .agentStore clearBase [1] :: [] ∧ s.running = some .sivEncrypt ∧ step s = .next t) ∧
    (∀ x ∈ [Input.cacheClean ⟨clearBase.toNat + 20, 8⟩, .cacheInvalidate ⟨clearBase.toNat + 20, 8⟩],
      ∃ s t : State, s.inbox = x :: [] ∧ s.running = some .sivEncrypt ∧ step s = .next t ∧
        s.hostDirty = [clearBase.toNat + 20] ∧ (⟨clearBase.toNat + 20, 8⟩ : Span).has (clearBase.toNat + 20) ∧
        s.srcSpan.has (clearBase.toNat + 20)) := by
  have h1 : (⟨clearBase.toNat + 20, 8⟩ : Span).has (clearBase.toNat + 20) := ⟨Nat.le_refl _, by simp⟩
  have h2 : ready.srcSpan.has (clearBase.toNat + 20) := ⟨by simp [ready_src], by simp [ready_src]⟩
  refine ⟨?_, ?_, fun x hx => ?_⟩
  · obtain ⟨t, h⟩ := running_store [1] (by decide)
    exact ⟨_, t, rfl, rfl, h⟩
  · obtain ⟨t, h⟩ := running_agentStore [1] (by decide)
    exact ⟨_, t, rfl, rfl, h⟩
  · simp only [List.mem_cons, List.not_mem_nil, or_false] at hx
    rcases hx with rfl | rfl
    · exact ⟨{ running .sivEncrypt with inbox := [.cacheClean ⟨clearBase.toNat + 20, 8⟩], hostDirty := [_] }, _, rfl, rfl,
        rfl, rfl, h1, h2⟩
    · exact ⟨{ running .sivEncrypt with inbox := [.cacheInvalidate ⟨clearBase.toNat + 20, 8⟩], hostDirty := [_] }, _, rfl,
        rfl, rfl, rfl, h1, h2⟩

/-- A load of a buffer while SIV_ENCRYPT runs, of a byte with a stale copy, and the maintenance of a range that holds a
byte not written back and a stale one. -/
theorem witness_HostLoadsAndCacheMaintenance :
    (∃ s : State, s.inbox = .memLoad clearBase 8 :: [] ∧ clearBase.toNat + 8 ≤ 2 ^ 64 ∧
      windowHit [⟨clearBase.toNat, 8⟩] = false ∧ (∀ dev ∈ s.devices, Span.overlaps ⟨clearBase.toNat, 8⟩ dev = false) ∧
      Memory.wf s.mem = true ∧ (∀ i, s.running = some i → s.Undisturbed i) ∧ s.running = some .sivEncrypt ∧
      s.hostStale = [(clearBase.toNat, 1)]) ∧
    (∀ x ∈ [Input.cacheClean ⟨4, 2⟩, .cacheInvalidate ⟨4, 2⟩],
      ∃ s : State, s.inbox = x :: [] ∧ s.hostDirty = [4, 6] ∧ s.hostStale = [(5, 1), (3, 1)]) := by
  refine ⟨⟨{ running .sivEncrypt with inbox := [.memLoad clearBase 8], hostStale := [(clearBase.toNat, 1)] }, rfl,
      (Span.inRange_iff _).1 (base_inRange 8 (by decide)), ?_, (fun d hd => by cases hd), rfl, ?_, rfl, rfl⟩,
    fun x _ => ⟨{ ready with inbox := [x], hostDirty := [4, 6], hostStale := [(5, 1), (3, 1)] }, rfl, rfl, rfl⟩⟩
  · simp only [windowHit, List.any_cons, List.any_nil, Bool.or_false, clear_base 8 (by decide)]
  · rintro i h
    have : i = .sivEncrypt := (Option.some.inj h).symm
    subst this
    exact ⟨ready_clear .sivEncrypt, rfl⟩

end Sys2Proof.Tests
end

section
/-! PROOF. What completing a command and raising an error record. -/

namespace Sys2Proof.Machine

/-- Settles O8. `raise` and `complete` are these record updates by definition; BUSY after completion is
`State.complete_busy`. -/
theorem errorsAndCompletionRecordStatus : Obligations.ErrorsAndCompletionRecordStatus := by
  intro s e
  exact ⟨rfl, rfl, s.complete_busy⟩

end Sys2Proof.Machine
end

section
/-! PROOF. Where every command ends, and what every command keeps of the operands and the surroundings. -/

namespace Sys2Proof.Machine

/-- A property of what a command with DMA ranges answers holds if it holds of the three ways the command can go. -/
theorem dmaCommand_induct {P : State → Prop} {check : Option ErrCode} {reads : List Span} {write : Span}
    {race run : State → State} {s t : State} (h : dmaCommand check reads write race run s = .next t)
    (hraise : ∀ e, P (s.raise e)) (hrace : check = none → s.hazard reads write = true → P (race s))
    (hrun : check = none → P (run s)) : P t := by
  obtain ⟨e, -, rfl⟩ | ⟨hc, -, hz, rfl⟩ | ⟨hc, -, -, rfl⟩ := dmaCommand_next h
  · exact hraise e
  · exact hrace hc hz
  · exact hrun hc

/-- The fields no command writes but by the completion step: the operands and control bits of R118, the sequencer, the
pending reset and the model's queue, last answer and devices. Every other field is at its reset value. -/
def State.frame (s : State) : State :=
  { State.reset with
    irqEn := s.irqEn, done := s.done, ovr := s.ovr, keylen := s.keylen, src := s.src, srclen := s.srclen,
    dst := s.dst, aad := s.aad, aadlen := s.aadlen, stage := s.stage, srPending := s.srPending, inbox := s.inbox,
    resp := s.resp, devices := s.devices, raced := s.raced }

/-- What the command `i` keeps of `s` in its next state `t`: the frame but for the completion step, and the bytes not
written back, which after a race those of the output range exposed under them join. -/
structure State.Keeps (s : State) (i : Instr) (t : State) : Prop where
  frame : t.frame = s.complete.frame
  hostDirty : t.hostDirty = s.hostDirty ∨
    (s.hazard (s.readSpans i) (s.writeSpan i) = true ∧ t.hostDirty = (s.addExposed (s.writeSpan i)).hostDirty)

variable {s t : State} {i : Instr}

theorem State.Keeps.raise (e : ErrCode) : s.Keeps i (s.raise e) := ⟨rfl, .inl rfl⟩

theorem runS2vAd_keeps : s.Keeps i (runS2vAd s) := by
  unfold runS2vAd
  dsimp only
  split <;> exact ⟨rfl, .inl rfl⟩

theorem runS2vFinal_keeps : s.Keeps i (runS2vFinal s) := by
  unfold runS2vFinal
  dsimp only
  split <;> exact ⟨rfl, .inl rfl⟩

theorem runCtrXform_keeps : s.Keeps i (runCtrXform s) := by
  unfold runCtrXform
  dsimp only
  split <;> exact ⟨rfl, .inl rfl⟩

theorem runSivEncrypt_keeps : s.Keeps i (runSivEncrypt s) := by
  unfold runSivEncrypt
  dsimp only
  split <;> exact ⟨rfl, .inl rfl⟩

theorem runSivDecrypt_keeps : s.Keeps i (runSivDecrypt s) := by
  obtain h | ⟨h, hm⟩ | ⟨h, hm, h2⟩ | ⟨h, hm, h2⟩ := runSivDecrypt_cases s
  · rw [runSivDecrypt_bus1 h]
    exact ⟨rfl, .inl rfl⟩
  · rw [runSivDecrypt_mismatch h hm]
    exact ⟨rfl, .inl rfl⟩
  · rw [runSivDecrypt_bus2 h hm h2]
    exact ⟨rfl, .inl rfl⟩
  · rw [runSivDecrypt_ok h hm h2]
    exact ⟨rfl, .inl rfl⟩

theorem raceS2vAd_keeps (hz : s.hazard (s.readSpans .s2vAd) (s.writeSpan .s2vAd) = true) :
    s.Keeps .s2vAd (raceS2vAd s) := by
  unfold raceS2vAd
  dsimp only
  split <;> exact ⟨rfl, .inr ⟨hz, rfl⟩⟩

theorem raceCtrXform_keeps (hz : s.hazard (s.readSpans .ctrXform) (s.writeSpan .ctrXform) = true) :
    s.Keeps .ctrXform (raceCtrXform s) := by
  unfold raceCtrXform
  dsimp only
  split <;> exact ⟨rfl, .inr ⟨hz, rfl⟩⟩

/-- Every command that answers a next state ends in the completion step and keeps the rest of the frame. -/
theorem exec_keeps (h : exec i s = .next t) : s.Keeps i t := by
  cases i with
  | nop => cases h; exact ⟨rfl, .inl rfl⟩
  | keyClear => cases h; exact ⟨rfl, .inl rfl⟩
  | keyLoad =>
    cases (execKeyLoad_eq s).symm.trans h
    split <;> exact ⟨rfl, .inl rfl⟩
  | s2vInit =>
    cases (execS2vInit_eq s).symm.trans h
    split <;> exact ⟨rfl, .inl rfl⟩
  | ivVerify =>
    cases (execIvVerify_eq s).symm.trans h
    split <;> exact ⟨rfl, .inl rfl⟩
  | s2vAd => exact dmaCommand_induct h .raise (fun _ => raceS2vAd_keeps) fun _ => runS2vAd_keeps
  | s2vFinal => exact dmaCommand_induct h .raise (fun _ hz => ⟨rfl, .inr ⟨hz, rfl⟩⟩) fun _ => runS2vFinal_keeps
  | ctrXform => exact dmaCommand_induct h .raise (fun _ => raceCtrXform_keeps) fun _ => runCtrXform_keeps
  | sivEncrypt => exact dmaCommand_induct h .raise (fun _ hz => ⟨rfl, .inr ⟨hz, rfl⟩⟩) fun _ => runSivEncrypt_keeps
  | sivDecrypt => exact dmaCommand_induct h .raise (fun _ hz => ⟨rfl, .inr ⟨hz, rfl⟩⟩) fun _ => runSivDecrypt_keeps

/-- Settles O41, by the frame of every command; what may join the bytes not written back is `State.mem_addExposed`. -/
theorem commandsKeepAddressLengthAndControlFields : Obligations.CommandsKeepAddressLengthAndControlFields := by
  intro s t i h
  obtain ⟨hf, hd⟩ := exec_keeps h
  refine ⟨(congrArg State.keylen hf :), (congrArg State.src hf :), (congrArg State.srclen hf :), (congrArg State.dst hf :),
    (congrArg State.aad hf :), (congrArg State.aadlen hf :), (congrArg State.irqEn hf :), (congrArg State.ovr hf :),
    (congrArg State.srPending hf :), (congrArg State.inbox hf :), (congrArg State.resp hf :), (congrArg State.devices hf :), ?_⟩
  obtain hd | ⟨hz, hd⟩ := hd
  · rw [hd]
    exact ⟨fun _ => rfl, fun _ => id, fun _ => .inl⟩
  · simp only [hd, State.mem_addExposed]
    exact ⟨fun hn => absurd hz (by simp [hn]), fun _ => .inl, fun _ => id⟩

end Sys2Proof.Machine
end

section
/-! PROOF. The engine's invariant: reset meets it, and every turn keeps it. -/

namespace Sys2Proof.Machine

/-! ### The part of the invariant that does not speak of BUSY -/

/-- The clauses of `State.Inv` that hold in the middle of a command as well: they do not speak of BUSY. -/
structure State.Sound (s : State) : Prop where
  memWf : Memory.wf s.mem = true
  noErrNoCode : s.err = false → s.errCode = .none
  noKeyZero : s.keyValid = false → s.k1 = zeroKey ∧ s.k2 = zeroKey
  noSequenceZero : s.s2vActive = false → s.d = 0
  sequenceNeedsKey : s.s2vActive = true → s.keyValid = true

variable {s t : State}

theorem State.Inv.sound (h : s.Inv) : s.Sound := { h with }

/-- Once a command has completed and no soft reset waits, the clauses about BUSY say nothing. -/
theorem State.Sound.inv_of_idle (h : s.Sound) (hs : s.stage = .idle) (hr : s.raced = false)
    (hp : s.srPending = false) : s.Inv :=
  have hb : s.busy ≠ true := by simp [(State.busy_eq_false_iff s).2 hs]
  { h with
    pendingBusy := fun hp' => by simp [hp] at hp'
    busyClear := fun hb' => absurd hb' hb
    racedBusy := fun hr' => by simp [hr] at hr' }

theorem State.Sound.complete (h : s.Sound) : s.complete.Sound := { h with }

theorem State.Sound.raise (h : s.Sound) (e : ErrCode) : (s.raise e).Sound := { h with noErrNoCode := nofun }

theorem State.Sound.consume (h : s.Sound) (lens : List Nat) : (s.consume lens).Sound := { h with }

theorem State.Sound.endSequence (h : s.Sound) : s.endSequence.Sound :=
  { h with noSequenceZero := fun _ => rfl, sequenceNeedsKey := nofun }

theorem State.Sound.busError (h : s.Sound) : s.busError.Sound := h.endSequence.raise .busError

/-- The result registers of R118 do not stand in the invariant. -/
theorem State.Sound.result (h : s.Sound) (v : Block) (outlen : DWord) (authOk : Bool) :
    State.Sound { s with v := v, outlen := outlen, authOk := authOk } := { h with }

/-- A running sequence may hold any accumulator. -/
theorem State.Sound.accumulate (h : s.Sound) (ha : s.s2vActive = true) (d : Block) (items : Word) :
    State.Sound { s with d := d, items := items } :=
  { h with noSequenceZero := fun hn => by simp [ha] at hn }

theorem State.Sound.dmaWrite {a : Nat} {bs : Bytes} (h : s.Sound) (ha : a + bs.length ≤ dmaTop) :
    (s.dmaWrite a bs).Sound :=
  { h with memWf := Memory.wf_writeBytes h.memWf ha }

theorem State.Sound.partialWrite {a : Nat} {bs : Bytes} (h : s.Sound) (ha : a + bs.length ≤ dmaTop) :
    (s.partialWrite a bs).Sound :=
  { h with memWf := Memory.wf_writeSome h.memWf ha }

theorem State.Sound.raceResult {x : Span} (h : s.Sound) (hx : x.base + x.len ≤ dmaTop) : (s.raceResult x).Sound :=
  { h with
    memWf := Memory.wf_writeBytes h.memWf (by simpa using hx)
    noErrNoCode := by simp }

/-- The engine's reset keeps memory and takes every other field of the invariant to its reset value. -/
theorem State.resetEngine_inv (h : Memory.wf s.mem = true) : s.resetEngine.Inv where
  memWf := h
  noErrNoCode := fun _ => rfl
  noKeyZero := fun _ => ⟨rfl, rfl⟩
  noSequenceZero := fun _ => rfl
  sequenceNeedsKey := nofun
  pendingBusy := nofun
  busyClear := nofun
  racedBusy := nofun

/-! ### Commands -/

theorem keyLoad_sound (h : s.Sound) (ht : execKeyLoad s = .next t) : t.Sound := by
  cases (execKeyLoad_eq s).symm.trans ht
  split
  · exact { h with noKeyZero := nofun, noSequenceZero := fun _ => rfl, sequenceNeedsKey := nofun }
  · exact { h with
      noErrNoCode := nofun, noKeyZero := fun _ => ⟨rfl, rfl⟩, noSequenceZero := fun _ => rfl,
      sequenceNeedsKey := nofun }

theorem keyClear_sound (h : s.Sound) (ht : execKeyClear s = .next t) : t.Sound := by
  cases ht
  exact { h with noKeyZero := fun _ => ⟨rfl, rfl⟩, noSequenceZero := fun _ => rfl, sequenceNeedsKey := nofun }

theorem s2vInit_sound (h : s.Sound) (ht : execS2vInit s = .next t) : t.Sound := by
  cases (execS2vInit_eq s).symm.trans ht
  split
  · next hk => exact { h with noSequenceZero := nofun, sequenceNeedsKey := fun _ => hk }
  · exact h.raise .noKey

theorem ivVerify_sound (h : s.Sound) (ht : execIvVerify s = .next t) : t.Sound := by
  cases (execIvVerify_eq s).symm.trans ht
  split
  · exact { h with }
  · exact h.raise .authFailed

theorem runS2vAd_sound (h : s.Sound) (ha : s.s2vActive = true) : (runS2vAd s).Sound := by
  unfold runS2vAd
  dsimp only
  split
  · exact (h.consume _).busError
  · exact ((h.consume _).accumulate ha _ _).complete

theorem runS2vFinal_sound (h : s.Sound) : (runS2vFinal s).Sound := by
  unfold runS2vFinal
  dsimp only
  split
  · exact (h.consume _).busError
  · exact { h with noSequenceZero := fun _ => rfl, sequenceNeedsKey := nofun }

theorem runCtrXform_sound (h : s.Sound) (hw : s.ctrDst.base + s.ctrDst.len ≤ dmaTop) : (runCtrXform s).Sound := by
  have ho : s.dst.toNat + s.ctrOutput.length ≤ dmaTop := by rw [State.length_ctrOutput]; exact hw
  unfold runCtrXform
  dsimp only
  split
  · exact ((h.consume _).partialWrite ho).busError
  · exact (((h.consume _).dmaWrite ho).result _ _ _).complete

theorem runSivEncrypt_sound (h : s.Sound) (hw : s.encDst.base + s.encDst.len ≤ dmaTop) : (runSivEncrypt s).Sound := by
  have ho : s.dst.toNat + s.encOutput.length ≤ dmaTop := by rw [State.length_encOutput]; exact hw
  unfold runSivEncrypt
  dsimp only
  split
  · exact ((h.consume _).endSequence.partialWrite ho).busError
  · exact (((h.consume _).endSequence.dmaWrite ho).result _ _ _).complete

theorem runSivDecrypt_sound (h : s.Sound) (hw : s.decDst.base + s.decDst.len ≤ dmaTop) : (runSivDecrypt s).Sound := by
  have ho : s.dst.toNat + s.decPlain.length ≤ dmaTop := by rw [State.length_decPlain]; exact hw
  have h1 := (h.consume s.decPass1).endSequence
  unfold runSivDecrypt
  dsimp only
  split
  · exact h1.busError
  · split
    · exact (h1.result _ _ _).raise .authFailed
    · split
      · exact ((h1.consume _).partialWrite ho).busError
      · exact (((h1.consume _).dmaWrite ho).result _ _ _).complete

theorem raceS2vAd_sound (h : s.Sound) (ha : s.s2vActive = true) : (raceS2vAd s).Sound := by
  have hr : (s.raceResult ⟨0, 0⟩).Sound := h.raceResult (Nat.zero_le _)
  unfold raceS2vAd
  dsimp only
  split
  · exact hr.endSequence
  · exact hr.accumulate ha _ _

theorem raceCtrXform_sound (h : s.Sound) (hw : s.ctrDst.base + s.ctrDst.len ≤ dmaTop) : (raceCtrXform s).Sound := by
  unfold raceCtrXform
  dsimp only
  split
  · exact (h.raceResult hw).endSequence
  · exact h.raceResult hw

theorem exec_sound {i : Instr} (h : s.Sound) (ht : exec i s = .next t) : t.Sound := by
  have hw (hc : s.preCheck i = none) := writeSpan_inRange hc
  cases i with
  | nop => cases ht; exact h.complete
  | keyLoad => exact keyLoad_sound h ht
  | keyClear => exact keyClear_sound h ht
  | s2vInit => exact s2vInit_sound h ht
  | ivVerify => exact ivVerify_sound h ht
  | s2vAd =>
    have ha (hc : s.s2vItemCheck = none) : s.s2vActive = true := ((s2vItemCheck_eq_none s).1 hc).2.1
    exact dmaCommand_induct ht h.raise (fun hc _ => raceS2vAd_sound h (ha hc)) fun hc => runS2vAd_sound h (ha hc)
  | s2vFinal =>
    exact dmaCommand_induct ht h.raise (fun _ _ => (h.raceResult (Nat.zero_le _)).endSequence)
      fun _ => runS2vFinal_sound h
  | ctrXform =>
    exact dmaCommand_induct ht h.raise (fun hc _ => raceCtrXform_sound h (hw hc)) fun hc => runCtrXform_sound h (hw hc)
  | sivEncrypt =>
    exact dmaCommand_induct ht h.raise (fun hc _ => (h.raceResult (hw hc)).endSequence)
      fun hc => runSivEncrypt_sound h (hw hc)
  | sivDecrypt =>
    exact dmaCommand_induct ht h.raise (fun hc _ => (h.raceResult (hw hc)).endSequence)
      fun hc => runSivDecrypt_sound h (hw hc)

/-- A command that runs with no soft reset pending keeps the invariant: it ends idle. -/
theorem exec_inv {i : Instr} (h : s.Inv) (hp : s.srPending = false) (ht : exec i s = .next t) : t.Inv := by
  have hf := (exec_keeps ht).frame
  exact (exec_sound h.sound ht).inv_of_idle (congrArg State.stage hf :) (congrArg State.raced hf :)
    ((congrArg State.srPending hf :).trans hp)

/-! ### An abort -/

theorem State.length_output_le (s : State) (i : Instr) : (s.output i).length ≤ (s.writeSpan i).len := by
  cases i with
  | ctrXform => exact (State.length_ctrOutput s).le
  | sivEncrypt => exact (State.length_encOutput s).le
  | sivDecrypt =>
    rw [State.output]
    split
    · exact (State.length_decPlain s).le
    · exact Nat.zero_le _
  | _ => exact Nat.zero_le _

theorem State.writeSpan_base_lt (s : State) (i : Instr) : (s.writeSpan i).base < dmaTop := by
  have hz : 0 < dmaTop := by decide
  cases i with
  | ctrXform => exact s.dst.isLt
  | sivEncrypt => exact s.dst.isLt
  | sivDecrypt => exact s.dst.isLt
  | _ => exact hz

/-- What a running command may write stays inside the DMA space. -/
theorem State.mayWrite_inRange (s : State) (i : Instr) :
    (s.writeSpan i).base + (s.mayWrite i).length ≤ dmaTop := by
  rw [State.mayWrite]
  cases hc : s.preCheck i with
  | some e => simpa using (s.writeSpan_base_lt i).le
  | none =>
    have hw := writeSpan_inRange hc
    have ho := s.length_output_le i
    rw [if_neg (by simp)]
    split
    · simpa using hw
    · omega

theorem State.settle_wf (h : Memory.wf s.mem = true) : Memory.wf s.settle.mem = true := by
  unfold State.settle
  cases s.running with
  | none => exact h
  | some i =>
    have hm := Memory.wf_writeSome (pick := Config.freeBool s.draws) (i := 0) h (s.mayWrite_inRange i)
    dsimp only
    split <;> exact hm

theorem abort_inv (h : s.Inv) (ht : s.abort = .next t) : t.Inv := by
  obtain ⟨-, rfl⟩ := abort_next ht
  exact State.resetEngine_inv (State.settle_wf h.memWf)

theorem engineStep_inv (h : s.Inv) (ht : engineStep s = .next t) : t.Inv := by
  obtain ⟨-, he⟩ | ⟨w, -, -, he⟩ | ⟨w, i, -, hp, -, he⟩ | ⟨w, e, -, hp, -, he⟩ := engineStep_cases s <;> rw [he] at ht
  · cases ht
    exact h
  · exact abort_inv h ht
  · exact exec_inv h hp ht
  · cases ht
    exact (h.sound.raise _).inv_of_idle rfl rfl hp

/-! ### The CSR window -/

theorem State.Inv.accept (h : s.Inv) (w : Word) : (s.accept w).Inv :=
  { h with
    noErrNoCode := fun _ => rfl
    pendingBusy := fun _ => rfl
    busyClear := fun _ => ⟨rfl, rfl, rfl, rfl⟩
    racedBusy := nofun }

theorem State.Inv.writeStatus (h : s.Inv) (w : Word) : (s.writeStatus w).Inv := by
  rw [writeStatus_eq]
  refine { h with noErrNoCode := fun he => ?_, busyClear := fun hb => ?_ }
  · cases hw : w.getLsbD 2 with
    | true => rfl
    | false => exact h.noErrNoCode (by simpa only [hw, Bool.not_false, Bool.and_true] using he)
  · obtain ⟨hd, he, ha, ho⟩ := h.busyClear hb
    exact ⟨by simp [hd], by simp [he], ha, ho⟩

theorem State.Inv.writeCtrl (h : s.Inv) (w : Word) : (s.writeCtrl w).Inv := by
  unfold State.writeCtrl
  split
  · split
    · next hb => exact { h with pendingBusy := fun _ => hb }
    · exact State.resetEngine_inv h.memWf
  · exact { h with }

/-- The write of an operand register is dropped, or does what it does while idle. -/
theorem State.Inv.writeOperand {f : State → State} (h : s.Inv) (hf : (f s).Inv) : (s.writeOperand f).Inv := by
  unfold State.writeOperand
  split
  · exact { h with }
  · exact hf

/-- A write to a register keeps the invariant: no operand register stands in it. -/
theorem writeCsr_inv (h : s.Inv) (c : Csr) (w : Word) : (writeCsr c w s).Inv := by
  cases c with
  | ctrl => exact h.writeCtrl w
  | status => exact h.writeStatus w
  | cmd => exact h.writeOperand (h.accept w)
  | id | keysz | items | outlenLo | outlenHi | reserved => exact h
  | _ =>
    unfold writeCsr
    exact h.writeOperand { h with }

theorem State.Inv.hostCsrWrite (h : s.Inv) (off size : Nat) (w : Word) : (s.hostCsrWrite off size w).Inv := by
  unfold State.hostCsrWrite
  split
  · exact { writeCsr_inv h (Csr.ofOffset off) w with }
  · exact { h with }

theorem State.Inv.hostCsrRead (h : s.Inv) (off size : Nat) : (s.hostCsrRead off size).Inv := by
  unfold State.hostCsrRead
  split <;> exact { h with }

/-! ### Memory and the host -/

/-- A race recorded by a store or by maintenance is recorded against a running command. -/
theorem State.Inv.raced_or_busy {b : Bool} (h : s.Inv) (hb : b = true → s.busy = true) :
    (s.raced || b) = true → s.busy = true := by
  rw [Bool.or_eq_true]
  exact fun hr => hr.elim h.racedBusy hb

theorem hostStore_inv {a : DWord} {bs : Bytes} (h : s.Inv) (ht : s.hostStore a bs = .next t) : t.Inv := by
  rw [State.hostStore] at ht
  obtain ⟨hr, -, -, hk⟩ := checkHostSpan_next ht
  cases hk
  exact { h with
    memWf := Memory.wf_writeBytes h.memWf ((Span.inRange_iff _).1 hr)
    racedBusy := h.raced_or_busy storeRaces_busy }

/-- Memory left alone on a coherent platform, and else rewritten byte by byte. -/
theorem Memory.wf_coherentOr {m : Memory} (f : Nat → Byte) (as : List Nat) (h : Memory.wf m = true) :
    Memory.wf (if Config.dmaCoherent then m else Memory.replace f m as) = true := by
  split
  · exact h
  · exact Memory.wf_replace h

theorem agentStore_inv {a : DWord} {bs : Bytes} (h : s.Inv) (ht : s.agentStore a bs = .next t) : t.Inv := by
  rw [State.agentStore] at ht
  obtain ⟨hr, -, -, hk⟩ := checkHostSpan_next ht
  cases hk
  exact { h with
    memWf := Memory.wf_coherentOr _ _ (Memory.wf_writeBytes h.memWf ((Span.inRange_iff _).1 hr))
    racedBusy := h.raced_or_busy storeRaces_busy }

theorem hostLoad_inv {a : DWord} {n : Nat} (h : s.Inv) (ht : s.hostLoad a n = .next t) : t.Inv := by
  obtain ⟨-, -, -, hk⟩ := checkHostSpan_next ht
  cases hk
  exact { h with }

theorem State.Inv.cacheClean (h : s.Inv) (x : Span) : (s.cacheClean x).Inv :=
  { h with
    memWf := Memory.wf_coherentOr _ _ h.memWf
    racedBusy := h.raced_or_busy maintenanceRaces_busy }

theorem State.Inv.cacheInvalidate (h : s.Inv) (x : Span) : (s.cacheInvalidate x).Inv :=
  { h with
    memWf := Memory.wf_coherentOr _ _ h.memWf
    racedBusy := h.raced_or_busy maintenanceRaces_busy }

/-! ### The step -/

theorem turn_inv {x : Input} (h : s.Inv) (ht : turn x s = .next t) : t.Inv := by
  cases x with
  | csrWrite off size w => cases ht; exact h.hostCsrWrite off size w
  | csrRead off size => cases ht; exact h.hostCsrRead off size
  | memStore a bs => exact hostStore_inv h ht
  | agentStore a bs => exact agentStore_inv h ht
  | memLoad a n => exact hostLoad_inv h ht
  | cacheClean x => cases ht; exact h.cacheClean x
  | cacheInvalidate x => cases ht; exact h.cacheInvalidate x
  | hwReset => exact abort_inv h ht
  | engineTurn => exact engineStep_inv h ht

/-- Settles O44: the invariant does not speak of the queue, and every turn keeps it. -/
theorem stepKeepsTheEngineInvariant : Obligations.StepKeepsTheEngineInvariant := by
  intro s t h ht
  cases hi : s.inbox with
  | nil => exact engineStep_inv h ((step_of_empty hi).symm.trans ht)
  | cons x rest => exact turn_inv (s := { s with inbox := rest }) { h with } ((step_of_turn hi).symm.trans ht)

/-- Settles O45: acceptance keeps the invariant, and a word is placed with no soft reset pending. -/
theorem resetMeetsTheEngineInvariant : Obligations.ResetMeetsTheEngineInvariant :=
  ⟨State.resetEngine_inv (s := State.reset) Memory.wf_reset, fun _ nbits w h =>
    { h.accept (tableWord nbits w) with pendingBusy := nofun }⟩

end Sys2Proof.Machine
end

section
/-! PROOF. The engine's turn, the two kinds of reset, and what a reset leaves of memory. -/

namespace Sys2Proof.Machine

variable {s : State} {i : Instr}

/-- Settles O1: a queued engine turn is the engine's step of the state without it. -/
theorem stepRunsDecodedCommand : Obligations.StepRunsDecodedCommand := by
  intro s w i hs hd hp
  constructor
  · intro hi
    rw [step_of_empty hi, engineStep_run hs hp, runCommand_ok s hd]
  · intro rest hi
    rw [step_of_turn hi, turn, engineStep_run (s := { s with inbox := rest }) hs hp, runCommand_ok _ hd]

/-! ### Reset values -/

theorem blockWord_zero (i : Fin 4) : blockWord 0 i.val = 0 := by
  revert i
  decide

/-- R57: after a reset every register but ID and KEYSZ reads 0. -/
theorem readCsr_resetEngine (c : Csr) (s : State) :
    readCsr c s.resetEngine = if c = .id then 0x53325601 else if c = .keysz then 64 else 0 := by
  have hr : readCsr c s.resetEngine = readCsr c State.reset := by cases c <;> rfl
  rw [hr]
  cases c with
  | keyW i => rfl
  | vW i => exact blockWord_zero i
  | ivrefW i => exact blockWord_zero i
  | _ => decide

/-- Settles O46: reset is the reset of the reset state. -/
theorem resetLeavesTheTableValues : Obligations.ResetLeavesTheTableValues := by
  intro r hr
  obtain ⟨s, rfl⟩ : ∃ s : State, r = s.resetEngine := hr.elim (fun h => ⟨State.reset, h⟩) id
  exact ⟨fun c => readCsr_resetEngine c s, rfl, rfl, rfl, rfl, rfl, rfl, rfl⟩

/-! ### A reset while a command runs -/

/-- A hardware reset, and the engine's turn with a soft reset pending, are one and the same abort. -/
theorem step_eq_abort {rest : List Input}
    (h : s.inbox = .hwReset :: rest ∨ (s.busy = true ∧ s.srPending = true ∧ s.engineNext rest)) :
    step s = State.abort { s with inbox := rest } := by
  obtain h | ⟨hb, hp, hn⟩ := h
  · exact step_of_turn h
  · obtain ⟨w, hw⟩ := (State.busy_eq_true_iff s).1 hb
    rw [step_of_engineNext hn, engineStep_pending (s := { s with inbox := rest }) hw hp]

theorem abort_of_not_running (h : s.running = none) : s.abort = .next s.resetEngine := by
  simp [State.abort, State.runningOverWindow, State.settle, h]

theorem isRacing_of_undisturbed (hu : s.Undisturbed i) : s.isRacing i = false := by
  simp [State.isRacing, hu.stable]

/-- The abort of an undisturbed command settles its output bytes and resets the engine. -/
theorem abort_of_undisturbed (hr : s.running = some i) (hu : s.Undisturbed i) :
    s.abort = .next (s.partialWrite (s.writeSpan i).base (s.mayWrite i)).resetEngine := by
  simp [State.abort, State.runningOverWindow, State.settle, hr, hu.clearOfWindow, isRacing_of_undisturbed hu]

/-- An undisturbed command may write its output, once it is past its pre-check. -/
theorem mayWrite_of_undisturbed (hu : s.Undisturbed i) :
    s.mayWrite i = if s.preCheck i = none then s.output i else [] := by
  cases hc : s.preCheck i <;> simp [State.mayWrite, hc, isRacing_of_undisturbed hu]

theorem preCheck_of_mayWrite {j : Nat} {x : Byte} (hu : s.Undisturbed i) (h : (s.mayWrite i)[j]? = some x) :
    s.preCheck i = none ∧ (s.output i)[j]? = some x := by
  rw [mayWrite_of_undisturbed hu] at h
  split at h
  · next hc => exact ⟨hc, h⟩
  · cases h

/-- R209: SIV_DECRYPT may write nothing without a match, nor when pass 1 meets a bus error. -/
theorem mayWrite_sivDecrypt (hu : s.Undisturbed .sivDecrypt)
    (h : s.decMatch = false ∨ busFails s.decPass1 s.busAnswers = true) : s.mayWrite .sivDecrypt = [] := by
  have ho : s.output .sivDecrypt = [] := by
    rw [State.output, if_neg]
    obtain h | h := h <;> simp [h]
  rw [mayWrite_of_undisturbed hu, ho, ite_self]

/-- A byte after a partial write is the old one, or the one written at its place. -/
theorem Memory.read_writeSome_cases {pick : Nat → Bool} {m : Memory} {a : Nat} {bs : Bytes} (hm : Memory.wf m = true)
    (ht : a + bs.length ≤ dmaTop) (x : Nat) :
    Memory.read (Memory.writeSome pick m a 0 bs) x = Memory.read m x ∨
      ∃ j, x = a + j ∧ bs[j]? = some (Memory.read (Memory.writeSome pick m a 0 bs) x) := by
  by_cases hx : a ≤ x ∧ x < a + bs.length
  · obtain ⟨j, rfl⟩ := Nat.exists_eq_add_of_le hx.1
    have hj : j < bs.length := by omega
    rw [Memory.read_writeSome_in hm ht hj]
    split
    · exact .inr ⟨j, rfl, List.getElem?_eq_getElem hj⟩
    · exact .inl rfl
  · exact .inl (Memory.read_writeSome_out hx)

/-- Settles O48: both resets are an abort, which resets the engine after it has settled the bytes the running command may
have written. -/
theorem resetAbortsTheRunningCommand : Obligations.ResetAbortsTheRunningCommand := by
  intro s rest h
  rw [step_eq_abort h]
  refine ⟨abort_of_not_running (s := { s with inbox := rest }), fun i hr hu hw => ?_⟩
  have hu' : State.Undisturbed { s with inbox := rest } i := ⟨hu.clearOfWindow, hu.stable⟩
  refine ⟨_, abort_of_undisturbed (s := { s with inbox := rest }) hr hu', rfl, fun x => ?_, ?_⟩
  · refine (Memory.read_writeSome_cases hw (s.mayWrite_inRange i) x).imp_right fun ⟨j, hx, hj⟩ => ?_
    obtain ⟨hc, ho⟩ := preCheck_of_mayWrite hu hj
    exact ⟨hc, j, hx, ho⟩
  · rintro rfl hn
    rw [mayWrite_sivDecrypt hu' hn]
    rfl

end Sys2Proof.Machine
end

section
/-! PROOF. The compound commands do not look at the chain state. -/

namespace Sys2Proof.Machine

/-- Settles O35: of the chain state the ends of SIV_ENCRYPT and of both outcomes of SIV_DECRYPT name none, so the two runs
end alike but for IVREF and ITEMS, which they keep. -/
theorem compoundCommandsIgnoreChainState : Obligations.CompoundCommandsIgnoreChainState := by
  intro s i d v ivref items active hi hc hu hb
  let s' : State := { s with d := d, v := v, ivref := ivref, items := items, s2vActive := active }
  obtain rfl | rfl := hi
  · have hf := busFails_noErrors [s.aadlen.toNat, s.srclen.toNat, s.srclen.toNat, 16 + s.srclen.toNat] _ hb
    refine ⟨runSivEncrypt s, runSivEncrypt s', dmaCommand_run _ _ hc hu.clearOfWindow hu.stable,
      dmaCommand_run (s := s') _ _ hc hu.clearOfWindow hu.stable, ?_⟩
    have ho : s'.encOutput = s.encOutput := rfl
    have hv : s'.encIv = s.encIv := rfl
    rw [runSivEncrypt_ok hf, runSivEncrypt_ok (s := s') hf, ho, hv]
  · have h1 := busFails_noErrors s.decPass1 _ hb
    have h2 := busFails_noErrors s.decPass2 _ (busRest_noErrors s.decPass1 _ hb)
    refine ⟨runSivDecrypt s, runSivDecrypt s', dmaCommand_run _ _ hc hu.clearOfWindow hu.stable,
      dmaCommand_run (s := s') _ _ hc hu.clearOfWindow hu.stable, ?_⟩
    cases hm : s.decMatch with
    | true =>
      rw [runSivDecrypt_ok h1 hm h2, runSivDecrypt_ok (s := s') h1 hm h2]
      rfl
    | false =>
      rw [runSivDecrypt_mismatch h1 hm, runSivDecrypt_mismatch (s := s') h1 hm]
      rfl

end Sys2Proof.Machine
end

section
/-! PROOF. The register map (R32): each register at its offset and at no other. -/

namespace Sys2Proof.Machine

/-- The aligned offsets of the map, checked one by one. -/
theorem ofOffset_table : ∀ k : Fin 44,
    Csr.ofOffset (4 * k.val) ≠ .reserved → (Csr.ofOffset (4 * k.val)).offset = 4 * k.val := by decide

/-- An aligned offset below the end of the map is one of the 44 words of the table. -/
theorem exists_word_of_aligned {off : Nat} (h4 : off % 4 = 0) (h : off < 0x0B0) : ∃ k : Fin 44, off = 4 * k.val :=
  ⟨⟨off / 4, by omega⟩, by dsimp only; omega⟩

theorem ofOffset_past {off : Nat} (h : 0x0B0 ≤ off) : Csr.ofOffset off = .reserved := by
  unfold Csr.ofOffset
  repeat rw [if_neg (by omega)]

/-- An aligned offset that selects a register of the map is that register's offset. -/
theorem offset_ofOffset {off : Nat} (h4 : off % 4 = 0) (hr : Csr.ofOffset off ≠ .reserved) :
    (Csr.ofOffset off).offset = off := by
  have h : off < 0x0B0 := Nat.lt_of_not_le fun h => hr (ofOffset_past h)
  obtain ⟨k, rfl⟩ := exists_word_of_aligned h4 h
  exact ofOffset_table k hr

@[simp] theorem ofOffset_keyW : ∀ i : Fin 16, Csr.ofOffset (0x050 + 4 * i.val) = .keyW i := by decide

@[simp] theorem ofOffset_vW : ∀ i : Fin 4, Csr.ofOffset (0x090 + 4 * i.val) = .vW i := by decide

@[simp] theorem ofOffset_ivrefW : ∀ i : Fin 4, Csr.ofOffset (0x0A0 + 4 * i.val) = .ivrefW i := by decide

/-- Every register stands at its offset, which is an aligned offset of the map. -/
theorem ofOffset_offset (c : Csr) : Csr.ofOffset c.offset = c ∧ c.offset % 4 = 0 ∧ c.offset < 0x0B0 := by
  cases c with
  | keyW i => exact ⟨ofOffset_keyW i, by rw [Csr.offset]; omega, by rw [Csr.offset]; omega⟩
  | vW i => exact ⟨ofOffset_vW i, by rw [Csr.offset]; omega, by rw [Csr.offset]; omega⟩
  | ivrefW i => exact ⟨ofOffset_ivrefW i, by rw [Csr.offset]; omega, by rw [Csr.offset]; omega⟩
  | _ => decide

/-- Settles O52: the table, the words of KEY_W, V and IVREF, and both directions of the map. -/
theorem registerMapHasNoAliases : Obligations.RegisterMapHasNoAliases := by
  refine ⟨by decide, ofOffset_keyW, fun i => ⟨ofOffset_vW i, ofOffset_ivrefW i⟩, fun _ => ofOffset_past, fun c => ?_,
    fun _ h4 _ => offset_ofOffset h4⟩
  obtain ⟨hc, h4, hw⟩ := ofOffset_offset c
  exact ⟨hc, h4, by omega⟩

end Sys2Proof.Machine
end

section
/-! PROOF. What one step does that reads or writes a register. -/

namespace Sys2Proof.Machine

variable {s : State} {off : Nat} {w : Word} {rest : List Input}

/-- The step of a write the port takes. -/
theorem step_csrWrite (hi : s.inbox = .csrWrite off 4 w :: rest) (h4 : off % 4 = 0) (hw : off < 0x1000) :
    step s = .next { writeCsr (Csr.ofOffset off) w { s with inbox := rest } with resp := .done } := by
  rw [step_of_turn hi, turn, hostCsrWrite_ok w _ h4 hw]

/-- The step of a read the port takes. -/
theorem step_csrRead (hi : s.inbox = .csrRead off 4 :: rest) (h4 : off % 4 = 0) (hw : off < 0x1000) :
    step s = .next
      { s with inbox := rest, resp := .data (readCsr (Csr.ofOffset off) { s with inbox := rest }) } := by
  rw [step_of_turn hi, turn, State.hostCsrRead, if_pos ((csrAccessOk_iff off 4).2 ⟨rfl, h4, hw⟩)]

theorem step_ctrlWrite (hi : s.inbox = .csrWrite 0x004 4 w :: rest) :
    step s = .next { State.writeCtrl w { s with inbox := rest } with resp := .done } :=
  step_csrWrite hi (by decide) (by decide)

theorem step_statusWrite (hi : s.inbox = .csrWrite 0x008 4 w :: rest) :
    step s = .next { State.writeStatus w { s with inbox := rest } with resp := .done } :=
  step_csrWrite hi (by decide) (by decide)

/-- Settles O47: a write to CTRL with bit 1 set, idle and busy. -/
theorem softResetRequest : Obligations.SoftResetRequest := by
  intro s w rest hi hw
  constructor
  · intro hb
    rw [step_ctrlWrite hi, writeCtrl_resetIdle (s := { s with inbox := rest }) hw hb]
    rfl
  · intro hb
    rw [step_ctrlWrite hi, writeCtrl_resetBusy (s := { s with inbox := rest }) hw hb]

/-- The registers whose write does nothing: the read-only ones and the reserved offsets (R51). -/
def Csr.readOnly : Csr → Bool
  | .id | .keysz | .items | .outlenLo | .outlenHi | .reserved => true
  | _ => false

/-- The registers whose write is dropped while a command runs: CMD and the operands (R281). -/
def Csr.droppedWhileBusy : Csr → Bool
  | .ctrl | .status => false
  | c => !c.readOnly

theorem writeCsr_readOnly {c : Csr} (h : c.readOnly = true) (w : Word) (s : State) : writeCsr c w s = s := by
  cases c with
  | id | keysz | items | outlenLo | outlenHi | reserved => rfl
  | _ => cases h

theorem writeCsr_droppedWhileBusy {c : Csr} (h : c.droppedWhileBusy = true) (w : Word) (hb : s.busy = true) :
    writeCsr c w s = s.dropWrite := by
  cases c with
  | id | keysz | items | outlenLo | outlenHi | reserved | ctrl | status => cases h
  | cmd => exact if_pos hb
  | _ =>
    unfold writeCsr
    exact writeOperand_busy _ hb

theorem ofOffset_readOnly
    (h : off = 0x000 ∨ off = 0x014 ∨ off = 0x018 ∨ off = 0x01C ∨ off = 0x048 ∨ off = 0x04C ∨ 0x0B0 ≤ off) :
    (Csr.ofOffset off).readOnly = true := by
  obtain rfl | rfl | rfl | rfl | rfl | rfl | h := h
  case inr.inr.inr.inr.inr.inr => rw [ofOffset_past h]; rfl
  all_goals decide

theorem ofOffset_droppedWhileBusy_table : ∀ k : Fin 44,
    k.val = 3 ∨ k.val = 4 ∨ (8 ≤ k.val ∧ k.val < 18) ∨ 20 ≤ k.val →
      (Csr.ofOffset (4 * k.val)).droppedWhileBusy = true := by decide

theorem ofOffset_droppedWhileBusy (h4 : off % 4 = 0)
    (h : off = 0x00C ∨ off = 0x010 ∨ (0x020 ≤ off ∧ off < 0x048) ∨ (0x050 ≤ off ∧ off < 0x0B0)) :
    (Csr.ofOffset off).droppedWhileBusy = true := by
  obtain ⟨k, rfl⟩ := exists_word_of_aligned h4 (by omega)
  exact ofOffset_droppedWhileBusy_table k (by omega)

/-- Settles O49: each clause is the step of a write, at a register of one kind. -/
theorem controlWritesAndWritesWhileBusy : Obligations.ControlWritesAndWritesWhileBusy := by
  intro s off w rest hi h4 hw s'
  have hs := step_csrWrite hi h4 hw
  refine ⟨fun h => ?_, ?_, ?_, fun hb => ⟨fun h => ?_, ?_⟩⟩
  · rw [hs, writeCsr_readOnly (ofOffset_readOnly h)]
  · rintro rfl h1
    rw [step_ctrlWrite hi, writeCtrl_enable h1]
  · rintro rfl
    rw [step_statusWrite hi, writeStatus_eq, writeStatus_eq]
  · rw [hs, writeCsr_droppedWhileBusy (s := { s with inbox := rest }) (ofOffset_droppedWhileBusy h4 h) w hb]
    rfl
  · rintro rfl h1
    rw [step_ctrlWrite hi, writeCtrl_resetBusy (s := { s with inbox := rest }) h1 hb]

/-! ### Operand writes while idle -/

/-- The step of an operand write while idle: the state `t` that the write leaves where it is not dropped. -/
theorem step_operandWrite {t : State} (hb : s.busy = false) (hi : s.inbox = .csrWrite off 4 w :: rest)
    (h4 : off % 4 = 0) (hw : off < 0x1000)
    (ht : writeCsr (Csr.ofOffset off) w { s with inbox := rest } =
      if s.busy then State.dropWrite { s with inbox := rest } else t) :
    step s = .next { t with resp := .done } := by
  rw [step_csrWrite hi h4 hw, ht, if_neg (by rw [hb]; decide)]

/-- A word of the operands reads back: the word written, and the other half of a pair as before. -/
theorem readCsr_writeCsr_operand (hb : s.busy = false) (w : Word) :
    ∀ c ∈ [Csr.keylen, .srcLo, .srcHi, .srclenLo, .srclenHi, .dstLo, .dstHi, .aadLo, .aadHi, .aadlenLo, .aadlenHi],
      readCsr c (writeCsr c w s) = w := by
  simp [readCsr, writeCsr, writeOperand_idle, hb]

theorem readCsr_writeCsr_otherHalf (hb : s.busy = false) (w : Word) :
    ∀ p ∈ [(Csr.srcLo, Csr.srcHi), (.srclenLo, .srclenHi), (.dstLo, .dstHi), (.aadLo, .aadHi), (.aadlenLo, .aadlenHi)],
      readCsr p.2 (writeCsr p.1 w s) = readCsr p.2 s ∧ readCsr p.1 (writeCsr p.2 w s) = readCsr p.1 s := by
  simp [readCsr, writeCsr, writeOperand_idle, hb]

/-- A word of a block register after one of its words is written (R47, R48). -/
theorem blockWord_setBlockWord_eq (b : Block) (i j : Fin 4) (w : Word) :
    blockWord (setBlockWord b i.val w) j.val = if j = i then w else blockWord b j.val := by
  split
  · next h => rw [h, blockWord_setBlockWord b _ w i.isLt]
  · next h => exact blockWord_setBlockWord_ne b w i.isLt j.isLt fun he => h (Fin.ext he)

theorem readCsr_writeCsr_vW (hb : s.busy = false) (w : Word) (i j : Fin 4) :
    readCsr (.vW j) (writeCsr (.vW i) w s) = if j = i then w else readCsr (.vW j) s := by
  have hv : State.busy { s with v := setBlockWord s.v i.val w } = false := hb
  simp only [writeCsr, readCsr, writeOperand_idle _ hb, hv, hb, Bool.false_eq_true, if_false,
    blockWord_setBlockWord_eq]

theorem readCsr_writeCsr_ivrefW (hb : s.busy = false) (w : Word) (i j : Fin 4) :
    readCsr (.ivrefW j) (writeCsr (.ivrefW i) w s) = if j = i then w else readCsr (.ivrefW j) s := by
  simp only [writeCsr, readCsr, writeOperand_idle _ hb, blockWord_setBlockWord_eq]

/-- Settles O53: the step of the write at each offset, then what is read back. -/
theorem operandWriteChangesOnlyItsRegister : Obligations.OperandWriteChangesOnlyItsRegister := by
  intro s w hb
  refine ⟨fun off rest hi => ?_, readCsr_writeCsr_operand hb w, readCsr_writeCsr_otherHalf hb w,
    fun i j => ⟨readCsr_writeCsr_vW hb w i j, readCsr_writeCsr_ivrefW hb w i j⟩, fun i => ⟨rfl, ?_⟩⟩
  · intro s'
    refine ⟨?_, fun i h => ?_, fun i => ⟨fun h => ?_, fun h => ?_⟩⟩
    · simp only [List.forall_mem_cons, List.not_mem_nil, false_implies, implies_true, and_true]
      and_intros <;> rintro rfl <;> exact (step_operandWrite hb hi (by decide) (by decide) rfl).trans rfl
    · subst h
      exact (step_operandWrite hb hi (by omega) (by omega) (by rw [ofOffset_keyW]; rfl)).trans rfl
    · subst h
      exact ⟨setBlockWord s.v i.val w,
        (step_operandWrite hb hi (by omega) (by omega) (by rw [ofOffset_vW]; rfl)).trans rfl, setBlockWord_byte s.v i w⟩
    · subst h
      exact ⟨setBlockWord s.ivref i.val w,
        (step_operandWrite hb hi (by omega) (by omega) (by rw [ofOffset_ivrefW]; rfl)).trans rfl,
        setBlockWord_byte s.ivref i w⟩
  · simp [writeCsr, writeOperand_idle, hb]

/-! ### Reads -/

theorem ctrlWord_eq (s : State) : s.ctrlWord = if s.irqEn then 1 else 0 := by
  rw [State.ctrlWord]
  cases s.irqEn <;> rfl

/-- Settles O50: the step of a read at each offset of the map; the lanes are `blockWord_byte`. -/
theorem csrReadsAnswerTheRegisters : Obligations.CsrReadsAnswerTheRegisters := by
  intro s off rest hi h4 hw
  refine ⟨_, step_csrRead hi h4 hw, ?_, fun i h => ?_, fun i j => ⟨fun h => ?_, fun h => ?_⟩⟩
  · simp only [List.forall_mem_cons, List.not_mem_nil, false_implies, implies_true, and_true]
    refine ⟨?_, fun h => h ▸ ctrlWord_eq s, ?_⟩
    · rintro rfl
      rfl
    · and_intros <;> rintro rfl <;> rfl
  · rw [h, ofOffset_keyW, readCsr]
  · have hbusy : State.busy { s with inbox := rest } = s.busy := rfl
    rw [h, ofOffset_vW, readCsr, hbusy]
    split
    · simp
    · exact blockWord_byte s.v i j
  · rw [h, ofOffset_ivrefW, readCsr]
    exact blockWord_byte s.ivref i j

end Sys2Proof.Machine
end

section
/-! PROOF. STATUS bit by bit (R35). -/

namespace Sys2Proof.Machine

theorem getLsbD_append_ofBool_zero {n : Nat} (x : BitVec n) (b : Bool) : (x ++ BitVec.ofBool b).getLsbD 0 = b := by
  rw [BitVec.getLsbD_append, if_pos (by decide)]
  cases b <;> rfl

theorem getLsbD_append_ofBool_succ {n : Nat} (x : BitVec n) (b : Bool) (i : Nat) :
    (x ++ BitVec.ofBool b).getLsbD (i + 1) = x.getLsbD i := by
  rw [BitVec.getLsbD_append, if_neg (by omega), Nat.add_sub_cancel]

/-- Above the eight flags stand the error code and the reserved bits. -/
theorem statusWord_getLsbD_high (s : State) (i : Nat) :
    s.statusWord.getLsbD (8 + i) = if i < 8 then s.errCode.code.getLsbD i else false := by
  have hflags : s.statusWord.getLsbD (i + 8) = ((0 : BitVec 16) ++ s.errCode.code).getLsbD i := by
    simp only [State.statusWord, getLsbD_append_ofBool_succ]
  rw [Nat.add_comm, hflags, BitVec.getLsbD_append]
  simp

/-- Settles O54: the flags bit by bit, the fields above them by `statusWord_getLsbD_high`. -/
theorem statusFieldsAndWrites : Obligations.StatusFieldsAndWrites := by
  intro s w
  refine ⟨?_, ?_, ?_, ?_, ?_, ?_, ?_, ?_, ⟨rfl, rfl, rfl, rfl, rfl, rfl, rfl, rfl, rfl, rfl⟩, ?code, ?reserved,
    writeStatus_eq w s⟩
  case code =>
    refine BitVec.eq_of_getLsbD_eq fun i hi => ?_
    rw [BitVec.getLsbD_extractLsb', statusWord_getLsbD_high, if_pos hi, decide_eq_true hi, Bool.true_and]
  case reserved =>
    refine BitVec.eq_of_getLsbD_eq fun i hi => ?_
    rw [BitVec.getLsbD_extractLsb', show 16 + i = 8 + (8 + i) by omega, statusWord_getLsbD_high, if_neg (by omega)]
    simp
  all_goals simp only [State.statusWord, getLsbD_append_ofBool_zero, getLsbD_append_ofBool_succ]

end Sys2Proof.Machine
end

section
/-! PROOF. Ranges: the tests on them are exact, and a range over the CSR window is refused by name. -/

namespace Sys2Proof.Machine

variable {s : State} {i : Instr}

/-- Settles O57: the laws `Span.inRange_iff` and `Span.overlaps_iff_shared`. -/
theorem rangeAndOverlapTestsAreExact : Obligations.RangeAndOverlapTestsAreExact :=
  fun x y => ⟨x.inRange_iff, x.overlaps_iff_shared y⟩

theorem windowHit_iff (xs : List Span) :
    windowHit xs = true ↔ ∃ x ∈ xs, ∃ a, x.has a ∧ windowSpan.has a := by
  simp only [windowHit, List.any_eq_true, Span.overlaps_iff_shared]

/-- Past its pre-checks a command with DMA ranges is refused exactly over the CSR window. -/
theorem dmaCommand_refused_iff {check : Option ErrCode} {reads : List Span} {write : Span} (race run : State → State)
    (hc : check = none) :
    dmaCommand check reads write race run s = .refused .csrWindowInBuffer ↔ windowHit (write :: reads) = true := by
  subst hc
  cases hw : windowHit (write :: reads) with
  | true => simp [dmaCommand, hw]
  | false => cases hz : s.hazard reads write <;> simp [dmaCommand, hw, hz]

/-- A command that does not use DMA answers a next state. -/
theorem exec_next_of_not_usesDma (h : ¬ Instr.usesDma i) : ∃ t, exec i s = .next t := by
  cases i with
  | nop | keyClear => exact ⟨_, rfl⟩
  | keyLoad => exact ⟨_, execKeyLoad_eq s⟩
  | s2vInit => exact ⟨_, execS2vInit_eq s⟩
  | ivVerify => exact ⟨_, execIvVerify_eq s⟩
  | _ => simp [Instr.usesDma] at h

/-- Settles O40: of the commands that answer no next state, each asks `windowHit`. -/
theorem bufferOverWindowIsRefused : Obligations.BufferOverWindowIsRefused := by
  intro s i hc
  rw [← windowHit_iff]
  by_cases hi : Instr.usesDma i
  · rw [and_iff_right hi]
    obtain rfl | rfl | rfl | rfl | rfl := hi <;> exact dmaCommand_refused_iff _ _ hc
  · obtain ⟨t, ht⟩ := exec_next_of_not_usesDma (s := s) hi
    simp [ht, hi]

end Sys2Proof.Machine
end

section
/-! PROOF. What a command leaves of memory: its output range, whole or in part, free bytes after a race, or nothing. -/

namespace Sys2Proof.Machine

variable {s t : State} {i : Instr}

/-! ### Races -/

/-- `t` is what a race over the output range `x` leaves of `s`, but for the command's chain and item counter. -/
def State.RacedTo (s : State) (x : Span) (t : State) : Prop :=
  ∃ d active items, t = { s.raceResult x with d := d, s2vActive := active, items := items }

theorem raceResult_endSequence_racedTo (s : State) (x : Span) : s.RacedTo x (s.raceResult x).endSequence :=
  ⟨0, false, s.items, rfl⟩

theorem raceS2vAd_racedTo (s : State) : s.RacedTo (s.writeSpan .s2vAd) (raceS2vAd s) := by
  unfold raceS2vAd
  dsimp only
  split <;> exact ⟨_, _, _, rfl⟩

theorem raceCtrXform_racedTo (s : State) : s.RacedTo (s.writeSpan .ctrXform) (raceCtrXform s) := by
  unfold raceCtrXform
  dsimp only
  split <;> exact ⟨_, _, _, rfl⟩

/-- Past its pre-checks and clear of the CSR window, a disturbed command ends as a race does. -/
theorem exec_race (hi : Instr.usesDma i) (hc : s.preCheck i = none)
    (hw : windowHit (s.writeSpan i :: s.readSpans i) = false) (hz : s.hazard (s.readSpans i) (s.writeSpan i) = true) :
    ∃ t, exec i s = .next t ∧ s.RacedTo (s.writeSpan i) t := by
  obtain rfl | rfl | rfl | rfl | rfl := hi
  · exact ⟨_, dmaCommand_race _ _ hc hw hz, raceS2vAd_racedTo s⟩
  · exact ⟨_, dmaCommand_race _ _ hc hw hz, raceResult_endSequence_racedTo s _⟩
  · exact ⟨_, dmaCommand_race _ _ hc hw hz, raceCtrXform_racedTo s⟩
  · exact ⟨_, dmaCommand_race _ _ hc hw hz, raceResult_endSequence_racedTo s _⟩
  · exact ⟨_, dmaCommand_race _ _ hc hw hz, raceResult_endSequence_racedTo s _⟩

/-- Settles O39: the end of a race, field by field; what disturbs a command is `State.hazard_iff`. -/
theorem racedCommandStaysInItsRange : Obligations.RacedCommandStaysInItsRange := by
  intro s i hi hc hw hz
  obtain ⟨t, ht, d, active, items, rfl⟩ := exec_race hi hc hw hz
  refine ⟨_, ht, rfl, rfl, by simp, fun x hx => ?_, rfl, rfl, rfl, rfl, (s.hazard_iff _ _).1 hz⟩
  exact Memory.read_writeBytes_out (by rwa [length_freeBytes])

/-! ### The output range -/

/-- The commands with an output range (R82). -/
def Instr.writesMemory (i : Instr) : Prop := i = .ctrXform ∨ i = .sivEncrypt ∨ i = .sivDecrypt

/-- What the command `i` may leave of the memory of `s` and of the host's copies of it. -/
inductive State.MemoryAfter (s : State) (i : Instr) (t : State) : Prop
  /-- It makes no write. -/
  | kept (mem : t.mem = s.mem) (stale : t.hostStale = s.hostStale)
  /-- It is past its pre-checks, and bytes that `pick` names land in its output range. -/
  | written (check : s.preCheck i = none) (writes : Instr.writesMemory i) (pick : Nat → Bool) (bs : Bytes)
    (length : bs.length = (s.writeSpan i).len) (mem : t.mem = Memory.writeSome pick s.mem (s.writeSpan i).base 0 bs)
    (stale : t.hostStale = Memory.copies s.mem (s.writeSpan i) ++ s.hostStale)

/-- A write in full is a write of which every byte lands. -/
theorem Memory.writeSome_all (m : Memory) (a k : Nat) (bs : Bytes) :
    Memory.writeSome (fun _ => true) m a k bs = Memory.writeBytes m a bs := by
  induction bs generalizing m a k with
  | nil => rfl
  | cons x xs ih => exact ih _ _ _

theorem State.MemoryAfter.dmaWrite {bs : Bytes} (hc : s.preCheck i = none) (hi : Instr.writesMemory i)
    (hl : bs.length = (s.writeSpan i).len) (hm : t.mem = Memory.writeBytes s.mem (s.writeSpan i).base bs)
    (hs : t.hostStale = Memory.copies s.mem ⟨(s.writeSpan i).base, bs.length⟩ ++ s.hostStale) : s.MemoryAfter i t :=
  .written hc hi _ bs hl (hm.trans (Memory.writeSome_all ..).symm) (by rw [hs, hl])

/-- A bus error after part of the output was written, from a state `u` with the memory and copies of `s`. -/
theorem State.MemoryAfter.partialWrite {u : State} {bs : Bytes} (hc : s.preCheck i = none) (hi : Instr.writesMemory i)
    (hl : bs.length = (s.writeSpan i).len) (hm : u.mem = s.mem) (hs : u.hostStale = s.hostStale) :
    s.MemoryAfter i (u.partialWrite (s.writeSpan i).base bs).busError :=
  .written hc hi (Config.freeBool u.draws) bs hl (by rw [State.busError_mem, State.partialWrite_mem, hm])
    (by rw [State.busError_hostStale, State.partialWrite_hostStale, hm, hs, hl])

theorem State.MemoryAfter.race (hc : s.preCheck i = none) (hi : Instr.writesMemory i)
    (h : s.RacedTo (s.writeSpan i) t) : s.MemoryAfter i t := by
  obtain ⟨d, active, items, rfl⟩ := h
  exact .written hc hi _ (freeBytes s.draws (s.writeSpan i).len) (length_freeBytes _ _)
    (Memory.writeSome_all ..).symm rfl

/-- A race of a command without an output range draws no byte. -/
theorem State.MemoryAfter.race_empty (h : s.RacedTo ⟨0, 0⟩ t) : s.MemoryAfter i t := by
  obtain ⟨d, active, items, rfl⟩ := h
  exact .kept rfl rfl

theorem runS2vAd_memory : s.MemoryAfter i (runS2vAd s) := by
  unfold runS2vAd
  dsimp only
  split <;> exact .kept rfl rfl

theorem runS2vFinal_memory : s.MemoryAfter i (runS2vFinal s) := by
  unfold runS2vFinal
  dsimp only
  split <;> exact .kept rfl rfl

theorem runCtrXform_memory (hc : s.ctrCheck = none) : s.MemoryAfter .ctrXform (runCtrXform s) := by
  unfold runCtrXform
  dsimp only
  split
  · exact .partialWrite hc (.inl rfl) s.length_ctrOutput rfl rfl
  · exact .dmaWrite hc (.inl rfl) s.length_ctrOutput rfl rfl

theorem runSivEncrypt_memory (hc : s.encCheck = none) : s.MemoryAfter .sivEncrypt (runSivEncrypt s) := by
  cases h : busFails [s.aadlen.toNat, s.srclen.toNat, s.srclen.toNat, 16 + s.srclen.toNat] s.busAnswers with
  | true =>
    rw [runSivEncrypt_bus h]
    exact .partialWrite hc (.inr (.inl rfl)) s.length_encOutput rfl rfl
  | false =>
    rw [runSivEncrypt_ok h]
    refine .dmaWrite hc (.inr (.inl rfl)) s.length_encOutput ?_ ?_ <;> dsimp only [State.writeSpan, State.encDst]

theorem runSivDecrypt_memory (hc : s.decCheck = none) : s.MemoryAfter .sivDecrypt (runSivDecrypt s) := by
  obtain h | ⟨h, hm⟩ | ⟨h, hm, h2⟩ | ⟨h, hm, h2⟩ := runSivDecrypt_cases s
  · rw [runSivDecrypt_bus1 h]
    exact .kept rfl rfl
  · rw [runSivDecrypt_mismatch h hm]
    exact .kept rfl rfl
  · rw [runSivDecrypt_bus2 h hm h2]
    exact .partialWrite hc (.inr (.inr rfl)) s.length_decPlain rfl rfl
  · rw [runSivDecrypt_ok h hm h2]
    exact .dmaWrite hc (.inr (.inr rfl)) s.length_decPlain rfl rfl

/-- Everything a command that answers a next state may leave of memory. -/
theorem exec_memory (h : exec i s = .next t) : s.MemoryAfter i t := by
  have hraise (e : ErrCode) : s.MemoryAfter i (s.raise e) := .kept rfl rfl
  cases i with
  | nop | keyClear => cases h; exact .kept rfl rfl
  | keyLoad =>
    cases (execKeyLoad_eq s).symm.trans h
    split <;> exact .kept rfl rfl
  | s2vInit =>
    cases (execS2vInit_eq s).symm.trans h
    split <;> exact .kept rfl rfl
  | ivVerify =>
    cases (execIvVerify_eq s).symm.trans h
    split <;> exact .kept rfl rfl
  | s2vAd =>
    exact dmaCommand_induct h hraise (fun _ _ => .race_empty (raceS2vAd_racedTo s)) fun _ => runS2vAd_memory
  | s2vFinal =>
    exact dmaCommand_induct h hraise (fun _ _ => .race_empty (raceResult_endSequence_racedTo s _))
      fun _ => runS2vFinal_memory
  | ctrXform =>
    exact dmaCommand_induct h hraise (fun hc _ => .race hc (.inl rfl) (raceCtrXform_racedTo s)) runCtrXform_memory
  | sivEncrypt =>
    exact dmaCommand_induct h hraise
      (fun hc _ => .race hc (.inr (.inl rfl)) (raceResult_endSequence_racedTo s _)) runSivEncrypt_memory
  | sivDecrypt =>
    exact dmaCommand_induct h hraise
      (fun hc _ => .race hc (.inr (.inr rfl)) (raceResult_endSequence_racedTo s _)) runSivDecrypt_memory

/-- Settles O43: a command makes no write, or a write into its output range of which copies from before may stay. -/
theorem commandsWriteOnlyTheirOutputRange : Obligations.CommandsWriteOnlyTheirOutputRange := by
  intro s t i h
  obtain ⟨hm, hs⟩ | ⟨hc, hi, pick, bs, hl, hm, hs⟩ := exec_memory h
  · rw [hm, hs]
    exact ⟨fun _ _ => rfl, fun _ => rfl, fun _ _ _ => rfl, fun _ => .inl, fun _ => id, fun _ hx => absurd rfl hx⟩
  · have hout (x : Nat) (hx : ¬ (s.writeSpan i).has x) : Memory.read t.mem x = Memory.read s.mem x := by
      rw [hm]
      exact Memory.read_writeSome_out (by rwa [hl])
    simp only [hs, List.mem_append, Memory.mem_copies]
    refine ⟨hout, fun ⟨e, he⟩ => absurd (hc.symm.trans he) nofun, fun h1 h2 h3 => ?_, fun c => Or.symm, fun c => .inr,
      fun x hx => .inl ⟨?_, trivial⟩⟩
    · exact hi.elim (absurd · h1) fun hi => hi.elim (absurd · h2) (absurd · h3)
    · exact Decidable.by_contra fun hn => hx (hout x hn)

/-- Settles O33: an undisturbed SIV_DECRYPT that fails a pre-check, meets a bus error in pass 1 or does not match ends in
an error before any write. -/
theorem noPlaintextBeforeMatch : Obligations.NoPlaintextBeforeMatch := by
  intro s t h hu hn
  obtain ⟨e, -, rfl⟩ | ⟨-, -, hz, -⟩ | ⟨-, -, -, rfl⟩ := dmaCommand_next h
  · exact ⟨rfl, id, rfl⟩
  · exact absurd (hu.stable.symm.trans hz) nofun
  · cases hb : busFails s.decPass1 s.busAnswers with
    | true =>
      rw [runSivDecrypt_bus1 hb]
      exact ⟨rfl, id, rfl⟩
    | false =>
      rw [runSivDecrypt_mismatch hb (hn.resolve_right (by simp [hb]))]
      exact ⟨rfl, id, rfl⟩

end Sys2Proof.Machine
end

section
/-! PROOF. A store or maintenance that comes too late for the running command (R94, R98). -/

namespace Sys2Proof.Machine

variable {s t : State} {a : DWord} {bs : Bytes} {x : Span} {rest : List Input}

theorem hostStore_raced (ht : s.hostStore a bs = .next t) :
    t.raced = (s.raced || s.storeRaces ⟨a.toNat, bs.length⟩) := by
  rw [State.hostStore] at ht
  obtain ⟨-, -, -, hk⟩ := checkHostSpan_next ht
  cases hk
  rfl

theorem agentStore_raced (ht : s.agentStore a bs = .next t) :
    t.raced = (s.raced || s.storeRaces ⟨a.toNat, bs.length⟩) := by
  rw [State.agentStore] at ht
  obtain ⟨-, -, -, hk⟩ := checkHostSpan_next ht
  cases hk
  rfl

/-- Whichever agent stores, the race it records. -/
theorem step_store_raced (hi : s.inbox = .memStore a bs :: rest ∨ s.inbox = .agentStore a bs :: rest)
    (ht : step s = .next t) : t.raced = (s.raced || s.storeRaces ⟨a.toNat, bs.length⟩) := by
  obtain hi | hi := hi
  · exact hostStore_raced (s := { s with inbox := rest }) ((step_of_turn hi).symm.trans ht)
  · exact agentStore_raced (s := { s with inbox := rest }) ((step_of_turn hi).symm.trans ht)

theorem step_cacheClean (hi : s.inbox = .cacheClean x :: rest) :
    step s = .next (State.cacheClean x { s with inbox := rest }) := step_of_turn hi

theorem step_cacheInvalidate (hi : s.inbox = .cacheInvalidate x :: rest) :
    step s = .next (State.cacheInvalidate x { s with inbox := rest }) := step_of_turn hi

/-- Whichever maintenance it is, the race it records. -/
theorem step_maintenance_raced (hi : s.inbox = .cacheClean x :: rest ∨ s.inbox = .cacheInvalidate x :: rest)
    (ht : step s = .next t) : t.raced = (s.raced || s.maintenanceRaces x) := by
  obtain hi | hi := hi
  · cases (step_cacheClean hi).symm.trans ht
    rfl
  · cases (step_cacheInvalidate hi).symm.trans ht
    rfl

/-- Settles O59, by what makes a store and late maintenance a race. -/
theorem lateHostWriteToRunningBufferIsARace : Obligations.LateHostWriteToRunningBufferIsARace := by
  intro s t i rest hr ht
  refine ⟨fun a bs hi => ?_, fun x hi => ?_⟩
  · rw [step_store_raced hi ht, Bool.or_eq_true, storeRaces_iff hr]
  · rw [step_maintenance_raced hi ht, Bool.or_eq_true, maintenanceRaces_iff hr]

end Sys2Proof.Machine
end

section
/-! PROOF. Host loads, and what maintenance changes (R85, R98). -/

namespace Sys2Proof.Machine

variable {s : State} {a : DWord} {x : Span} {rest : List Input}

/-- A range inside the DMA space, clear of the window and of devices, is plain memory to the outside world. -/
theorem checkHostSpan_clear (k : State → Host.Outcome State Fault Refusal) (hr : x.base + x.len ≤ 2 ^ 64)
    (hw : windowHit [x] = false) (hd : ∀ dev ∈ s.devices, x.overlaps dev = false) : s.checkHostSpan x k = k s :=
  checkHostSpan_ok k (x.inRange_iff.2 hr) hw (List.any_eq_false.2 fun dev h => by simp [hd dev h])

/-- Outside the addresses it rewrites, and on a coherent platform, memory reads as before. -/
theorem Memory.read_coherentOr {f : Nat → Byte} {m : Memory} {as : List Nat} {b : Nat}
    (h : Config.dmaCoherent = true ∨ b ∉ as) :
    Memory.read (if Config.dmaCoherent then m else Memory.replace f m as) b = Memory.read m b := by
  split
  · rfl
  · next hc => exact Memory.read_replace_out (h.resolve_left hc)

/-! ### Loads -/

/-- The bytes a host load of `n` bytes from `a` on returns. -/
def State.loadBytes (s : State) (a n : Nat) : Bytes := (List.range n).map fun i => s.loadByte (a + i)

/-- The step of a host load that runs. -/
theorem step_memLoad {n : Nat} (hi : s.inbox = .memLoad a n :: rest) (hr : a.toNat + n ≤ 2 ^ 64)
    (hw : windowHit [⟨a.toNat, n⟩] = false) (hd : ∀ dev ∈ s.devices, Span.overlaps ⟨a.toNat, n⟩ dev = false) :
    step s = .next
      { s with
        inbox := rest, resp := .bytes (State.loadBytes { s with inbox := rest } a.toNat n), draws := s.draws + 1 } := by
  rw [step_of_turn hi, turn, State.hostLoad]
  exact checkHostSpan_clear (x := ⟨a.toNat, n⟩) (s := { s with inbox := rest }) _ hr hw hd

/-- While no command runs, a load of a range of which the host's caches hold no copy reads memory. -/
theorem loadBytes_fresh {a n : Nat} (hs : s.stage = .idle) (hf : ∀ c ∈ s.hostStale, ¬ Span.has ⟨a, n⟩ c.1) :
    s.loadBytes a n = Memory.readBytes s.mem a n := by
  refine List.map_congr_left fun i hi => ?_
  have hx : Span.has ⟨a, n⟩ (a + i) := ⟨by simp, by simpa using hi⟩
  rw [loadByte_fresh fun c hc he => hf c hc (he ▸ hx), partialMem_idle hs]

/-- The step of such a load. -/
theorem step_memLoad_fresh {n : Nat} (hi : s.inbox = .memLoad a n :: rest) (hr : a.toNat + n ≤ 2 ^ 64)
    (hw : windowHit [⟨a.toNat, n⟩] = false) (hd : ∀ dev ∈ s.devices, Span.overlaps ⟨a.toNat, n⟩ dev = false)
    (hs : s.stage = .idle) (hf : ∀ c ∈ s.hostStale, ¬ Span.has ⟨a.toNat, n⟩ c.1) :
    step s = .next
      { s with inbox := rest, resp := .bytes (Memory.readBytes s.mem a.toNat n), draws := s.draws + 1 } := by
  rw [step_memLoad hi hr hw hd, loadBytes_fresh (s := { s with inbox := rest }) hs hf]

/-- What memory shows of a byte while an undisturbed command runs: the byte it holds, or the one the command writes
there. -/
theorem read_partialMem_cases (hu : ∀ i, s.running = some i → s.Undisturbed i) (hw : Memory.wf s.mem = true) (b : Nat) :
    Memory.read s.partialMem b = Memory.read s.mem b ∨
      ∃ i k, s.running = some i ∧ s.preCheck i = none ∧ b = (s.writeSpan i).base + k ∧
        (s.output i)[k]? = some (Memory.read s.partialMem b) := by
  unfold State.partialMem
  cases hr : s.running with
  | none => exact .inl rfl
  | some i =>
    refine (Memory.read_writeSome_cases hw (s.mayWrite_inRange i) b).imp_right fun ⟨k, hb, hk⟩ => ?_
    obtain ⟨hc, ho⟩ := preCheck_of_mayWrite (hu i hr) hk
    exact ⟨i, k, rfl, hc, hb, ho⟩

/-- R209: a byte of SIV_DECRYPT's output follows a match and a pass 1 without bus error. -/
theorem decMatch_of_output {k : Nat} {v : Byte} (h : (s.output .sivDecrypt)[k]? = some v) :
    s.decMatch = true ∧ busFails s.decPass1 s.busAnswers = false := by
  rw [State.output] at h
  split at h
  · next hm => simpa [and_comm] using hm
  · cases h

/-! ### Maintenance -/

/-- The bytes that still wait after maintenance of a range. -/
theorem mem_filter_not_onLine (x : Span) (l : List Nat) (b : Nat) :
    b ∈ (l.filter fun b => !x.onLine b) ↔ b ∈ l ∧ ¬ x.touchesLine b := by
  rw [List.mem_filter, Bool.not_eq_true', ← Bool.not_eq_true, Span.onLine_iff]

/-- The copies that stay after a range was invalidated. -/
theorem mem_hostStale_cacheInvalidate (x : Span) (s : State) (c : Host.Cell) :
    c ∈ (s.cacheInvalidate x).hostStale ↔ c ∈ s.hostStale ∧ ¬ x.touchesLine c.1 := by
  rw [State.cacheInvalidate, List.mem_filter, Bool.not_eq_true', ← Bool.not_eq_true, Span.onLine_iff]

/-- An invalidate changes no byte but those of its lines that were not written back. -/
theorem read_cacheInvalidate {b : Nat} (h : Config.dmaCoherent = true ∨ b ∉ s.hostDirty ∨ ¬ x.touchesLine b) :
    Memory.read (s.cacheInvalidate x).mem b = Memory.read s.mem b := by
  refine Memory.read_coherentOr ?_
  rwa [List.mem_filter, Span.onLine_iff, not_and_or]

/-- Settles O60: a load byte by byte, a clean and an invalidate by what each leaves. -/
theorem hostLoadsAndCacheMaintenance : Obligations.HostLoadsAndCacheMaintenance := by
  intro s rest
  let u : State := { s with inbox := rest }
  refine ⟨fun a n hi hr hw hd hm hu => ?_, fun x hi => ?_, fun x hi => ?_⟩
  · refine ⟨_, step_memLoad hi hr hw hd, by simp [State.loadBytes], fun j v hv => ?_⟩
    obtain ⟨-, rfl⟩ : j < n ∧ u.loadByte (a.toNat + j) = v := by
      simpa [State.loadBytes, List.getElem?_eq_some_iff] using hv
    have hu' (i : Instr) (h : u.running = some i) : u.Undisturbed i := ⟨(hu i h).clearOfWindow, (hu i h).stable⟩
    obtain hl | ⟨hc, hl⟩ := loadByte_cases u (a.toNat + j)
    · rw [hl]
      refine (read_partialMem_cases hu' hm _).imp_right fun ⟨i, k, hi, hc, hb, ho⟩ => .inl ⟨i, k, hi, hc, hb, ho, ?_⟩
      rintro rfl
      exact decMatch_of_output ho
    · exact .inr (.inr ⟨hc, hl⟩)
  · exact ⟨_, step_cacheClean hi, rfl, mem_filter_not_onLine x s.hostDirty, read_cacheClean (s := u)⟩
  · exact ⟨_, step_cacheInvalidate hi, rfl, mem_filter_not_onLine x s.hostDirty, mem_hostStale_cacheInvalidate x u,
      fun b => read_cacheInvalidate (s := u)⟩

end Sys2Proof.Machine
end

section
/-! PROOF. The whole next state of a store, and the load after it. -/

namespace Sys2Proof.Machine

variable {s : State} {a : DWord} {bs : Bytes} {rest : List Input}

/-- The step of a host store that runs. -/
theorem step_memStore (hi : s.inbox = .memStore a bs :: rest) (hr : a.toNat + bs.length ≤ 2 ^ 64)
    (hw : windowHit [⟨a.toNat, bs.length⟩] = false)
    (hd : ∀ dev ∈ s.devices, Span.overlaps ⟨a.toNat, bs.length⟩ dev = false) :
    step s = .next
      { s with
        inbox := rest
        mem := Memory.writeBytes s.mem a.toNat bs
        hostDirty := Span.addrs ⟨a.toNat, bs.length⟩
          ++ (s.hostStale.map (·.1)).filter (Span.onLine ⟨a.toNat, bs.length⟩) ++ s.hostDirty
        hostStale := s.hostStale.filter fun c => !decide (Span.has ⟨a.toNat, bs.length⟩ c.1)
        raced := s.raced || s.storeRaces ⟨a.toNat, bs.length⟩
        resp := .done } := by
  rw [step_of_turn hi, turn, State.hostStore]
  exact checkHostSpan_clear (x := ⟨a.toNat, bs.length⟩) (s := { s with inbox := rest }) _ hr hw hd

/-- The memory another agent's store leaves. -/
def State.agentMem (s : State) (a : Nat) (bs : Bytes) : Memory :=
  if Config.dmaCoherent then Memory.writeBytes s.mem a bs
  else Memory.replace (Config.freeByte s.draws) (Memory.writeBytes s.mem a bs)
    ((s.addExposed ⟨a, bs.length⟩).hostDirty.filter fun b => decide (Span.has ⟨a, bs.length⟩ b))

/-- The step of another agent's store that runs. -/
theorem step_agentStore (hi : s.inbox = .agentStore a bs :: rest) (hr : a.toNat + bs.length ≤ 2 ^ 64)
    (hw : windowHit [⟨a.toNat, bs.length⟩] = false)
    (hd : ∀ dev ∈ s.devices, Span.overlaps ⟨a.toNat, bs.length⟩ dev = false) :
    step s = .next
      { s with
        inbox := rest
        mem := s.agentMem a.toNat bs
        hostDirty := (s.addExposed ⟨a.toNat, bs.length⟩).hostDirty
        hostStale := Memory.copies s.mem ⟨a.toNat, bs.length⟩ ++ s.hostStale
        raced := s.raced || s.storeRaces ⟨a.toNat, bs.length⟩
        resp := .done
        draws := s.draws + 1 } := by
  rw [step_of_turn hi, turn, State.agentStore]
  exact checkHostSpan_clear (x := ⟨a.toNat, bs.length⟩) (s := { s with inbox := rest }) _ hr hw hd

/-- Outside its range another agent's store changes no byte. -/
theorem read_agentMem_out {a b : Nat} (h : ¬ Span.has ⟨a, bs.length⟩ b) :
    Memory.read (s.agentMem a bs) b = Memory.read s.mem b := by
  refine (Memory.read_coherentOr (.inr ?_)).trans (Memory.read_writeBytes_out h)
  simp [h]

/-- Where another agent's store meets no line not written back, it is what memory holds. -/
theorem readBytes_agentMem {a : Nat} (hm : Memory.wf s.mem = true) (hr : a + bs.length ≤ dmaTop)
    (h : Config.dmaCoherent = true ∨ ∀ b ∈ s.hostDirty, ¬ Span.touchesLine ⟨a, bs.length⟩ b) :
    Memory.readBytes (s.agentMem a bs) a bs.length = bs := by
  refine (Memory.readBytes_congr fun i hi => ?_).trans (Memory.readBytes_writeBytes hm hr)
  refine Memory.read_coherentOr (h.imp_right fun h hb => ?_)
  obtain ⟨hb, hx⟩ := List.mem_filter.1 hb
  have hx : Span.has ⟨a, bs.length⟩ (a + i) := of_decide_eq_true hx
  obtain hb | ⟨-, d, hd, hl⟩ := (s.mem_addExposed _ _).1 hb
  · exact h _ hb (Span.touchesLine_of_has hx)
  · exact h d hd ⟨_, hx, hl⟩

/-- A store that meets a buffer of the running command, if there is one. -/
theorem storeRaces_iff_exists (x : Span) (s : State) :
    s.storeRaces x = true ↔
      ∃ i, s.running = some i ∧ ∃ y ∈ s.writeSpan i :: s.readSpans i, ∃ b, y.has b ∧ x.has b := by
  cases hr : s.running with
  | none => simp [State.storeRaces, hr]
  | some i => simp [storeRaces_iff hr]

/-- Settles O58: the next state of each store, then each field of it. -/
theorem storesChangeOnlyTheirBytes : Obligations.StoresChangeOnlyTheirBytes := by
  intro s a bs rest hr hw hd hm x races
  have hraced : (s.raced || s.storeRaces x) = true ↔ s.raced = true ∨ races := by
    rw [Bool.or_eq_true, storeRaces_iff_exists]
  constructor
  · intro hi
    have hback : Memory.readBytes (Memory.writeBytes s.mem a.toNat bs) a.toNat bs.length = bs :=
      Memory.readBytes_writeBytes hm hr
    have hstale (c : Host.Cell) :
        c ∈ (s.hostStale.filter fun c => !decide (x.has c.1)) ↔ c ∈ s.hostStale ∧ ¬ x.has c.1 := by
      rw [List.mem_filter, Bool.not_eq_true', decide_eq_false_iff_not]
    refine ⟨_, step_memStore hi hr hw hd, rfl, hback, fun b hb => Memory.read_writeBytes_out hb, fun b => ?_, hstale,
      hraced, fun hb rest' he => ?_⟩
    · simp [Span.mem_addrs, Span.onLine_iff, x, or_comm, or_left_comm, and_comm]
    · refine Eq.trans (step_memLoad_fresh he hr hw hd ((State.busy_eq_false_iff s).1 hb)
        fun c hc => ((hstale c).1 hc).2) ?_
      dsimp only
      rw [hback]
  · intro hi
    refine ⟨_, step_agentStore hi hr hw hd, rfl, readBytes_agentMem hm hr, fun b hb => read_agentMem_out hb,
      s.mem_addExposed x, fun c => ?_, hraced⟩
    rw [List.mem_append, Memory.mem_copies, or_comm]

end Sys2Proof.Machine
end

section
/-! PROOF. The decoder: the fields of a word, the opcode map, and the round trip on words and on bytes. -/

namespace Sys2Proof

variable {w : Word} {i : Instr}

/-! ### The two fields of a word (R110) -/

theorem rsvdField_append_opcodeField (w : Word) : rsvdField w ++ opcodeField w = w :=
  BitVec.extractLsb'_append_extractLsb'

theorem word_eq_iff_fields (w w' : Word) : w = w' ↔ rsvdField w = rsvdField w' ∧ opcodeField w = opcodeField w' := by
  constructor
  · rintro rfl
    exact ⟨rfl, rfl⟩
  · rintro ⟨hr, ho⟩
    rw [← rsvdField_append_opcodeField w, hr, ho, rsvdField_append_opcodeField]

theorem encodesAssigned (i : Instr) : Laws.EncodesAssigned.Statement i := by
  cases i with
  | nop => exact Laws.EncodesAssigned.nop
  | keyLoad => exact Laws.EncodesAssigned.keyLoad
  | keyClear => exact Laws.EncodesAssigned.keyClear
  | s2vInit => exact Laws.EncodesAssigned.s2vInit
  | s2vAd => exact Laws.EncodesAssigned.s2vAd
  | s2vFinal => exact Laws.EncodesAssigned.s2vFinal
  | ctrXform => exact Laws.EncodesAssigned.ctrXform
  | ivVerify => exact Laws.EncodesAssigned.ivVerify
  | sivEncrypt => exact Laws.EncodesAssigned.sivEncrypt
  | sivDecrypt => exact Laws.EncodesAssigned.sivDecrypt

/-- The fields say which command's encoding a word is. -/
theorem eq_encode_iff : w = encode i ↔ rsvdField w = 0 ∧ opcodeField w = i.opcode := by
  obtain ⟨-, ho, hr⟩ := encodesAssigned i
  rw [word_eq_iff_fields, hr, ho]

/-! ### The opcode map (R112) -/

theorem ofOpcode_opcode (i : Instr) : Instr.ofOpcode i.opcode = some i := by
  cases i <;> rfl

/-- The test of each branch of the map is the opcode of its command. -/
theorem ofOpcode_eq_some_iff {op : BitVec 8} : Instr.ofOpcode op = some i ↔ op = i.opcode := by
  constructor
  · intro h
    unfold Instr.ofOpcode at h
    split_ifs at h <;> cases h <;> assumption
  · rintro rfl
    exact ofOpcode_opcode i

theorem opcode_injective : Function.Injective Instr.opcode := fun i j h =>
  Option.some.inj (by rw [← ofOpcode_opcode i, h, ofOpcode_opcode])

/-- The commands, in the order of the opcode table. -/
def Instr.table : List Instr :=
  [.nop, .keyLoad, .keyClear, .s2vInit, .s2vAd, .s2vFinal, .ctrXform, .ivVerify, .sivEncrypt, .sivDecrypt]

theorem mem_table (i : Instr) : i ∈ Instr.table := by
  cases i <;> decide

/-- The ten opcode values that the statements write out are those of the ten commands. -/
theorem mem_opcodes_iff (op : BitVec 8) :
    op ∈ ([0x00, 0x01, 0x02, 0x10, 0x11, 0x12, 0x20, 0x21, 0x30, 0x31] : List (BitVec 8)) ↔ ∃ i : Instr, op = i.opcode := by
  have ht : [0x00, 0x01, 0x02, 0x10, 0x11, 0x12, 0x20, 0x21, 0x30, 0x31] = Instr.table.map Instr.opcode := rfl
  simp only [ht, List.mem_map, mem_table, true_and, eq_comm]

/-! ### Words -/

theorem decode_rsvdNonzero (hr : rsvdField w ≠ 0) : decode w = .error .rsvdNonzero := by
  rw [decode, if_pos hr]

theorem decode_eq_ok_iff : decode w = .ok i ↔ rsvdField w = 0 ∧ opcodeField w = i.opcode := by
  rw [← ofOpcode_eq_some_iff]
  by_cases hr : rsvdField w = 0
  · rw [decode, if_neg (not_not.2 hr), and_iff_right hr]
    cases Instr.ofOpcode (opcodeField w) <;> simp
  · rw [decode_rsvdNonzero hr]
    exact ⟨nofun, fun h => absurd h.1 hr⟩

theorem decode_eq_ok_iff_eq_encode : decode w = .ok i ↔ w = encode i := by
  rw [decode_eq_ok_iff, eq_encode_iff]

theorem decode_encode (i : Instr) : decode (encode i) = .ok i := decode_eq_ok_iff_eq_encode.2 rfl

/-! ### Bytes (R117, log entry 18) -/

theorem wordToBytes_wordOfBytes (b0 b1 b2 b3 : Byte) : wordToBytes (wordOfBytes b0 b1 b2 b3) = [b0, b1, b2, b3] := by
  have h := Machine.laneWord_byte b0 b1 b2 b3
  simp only [wordToBytes, List.cons.injEq, and_true]
  exact ⟨h 0, h 1, h 2, h 3⟩

theorem wordToBytes_injective : Function.Injective wordToBytes := fun w w' h => by
  have hb (w : Word) : wordToBytes w = laneBytes w := rfl
  rw [← laneWord_laneBytes w, ← hb, h, hb, laneWord_laneBytes]

theorem wordOfBytes_eq_iff (b0 b1 b2 b3 : Byte) : wordOfBytes b0 b1 b2 b3 = w ↔ [b0, b1, b2, b3] = wordToBytes w := by
  rw [← wordToBytes_injective.eq_iff, wordToBytes_wordOfBytes]

/-- At least four bytes decode as the word of the first four. -/
theorem decodeBytes_eq_ok_iff (b0 b1 b2 b3 : Byte) (tail rest : Bytes) :
    decodeBytes (b0 :: b1 :: b2 :: b3 :: tail) = .ok (i, rest) ↔
      decode (wordOfBytes b0 b1 b2 b3) = .ok i ∧ tail = rest := by
  rw [decodeBytes]
  cases decode (wordOfBytes b0 b1 b2 b3) <;> simp

theorem decodeBytes_eq_ok_iff_eq_encodeBytes (bs rest : Bytes) :
    decodeBytes bs = .ok (i, rest) ↔ bs = encodeBytes i ++ rest := by
  match bs with
  | b0 :: b1 :: b2 :: b3 :: tail =>
    calc
      _ ↔ wordOfBytes b0 b1 b2 b3 = encode i ∧ tail = rest := by
        rw [decodeBytes_eq_ok_iff, decode_eq_ok_iff_eq_encode]
      _ ↔ [b0, b1, b2, b3] = encodeBytes i ∧ tail = rest := by rw [wordOfBytes_eq_iff, encodeBytes]
      _ ↔ [b0, b1, b2, b3] ++ tail = encodeBytes i ++ rest := by
        simp [encodeBytes, wordToBytes, and_assoc]
  | [] | [_] | [_, _] | [_, _, _] => exact ⟨nofun, nofun⟩

/-- Settles O6: a word is settled by its two fields, and four bytes by the word they make. -/
theorem decodeAndEncodeAgree : Obligations.DecodeAndEncodeAgree :=
  ⟨fun _ _ => decode_eq_ok_iff_eq_encode, fun bs _ rest => decodeBytes_eq_ok_iff_eq_encodeBytes bs rest⟩

/-- Settles O7: five words are encodings, one has an unassigned opcode, one a bit set in RSVD. -/
theorem writtenOutWordsDecode : Obligations.WrittenOutWordsDecode :=
  ⟨decode_encode .nop, decode_encode .keyLoad, decode_encode .s2vAd, decode_encode .ctrXform,
    decode_encode .sivDecrypt, rfl, decode_rsvdNonzero (by decide)⟩

end Sys2Proof
end

section
/-! PROOF. From a word to the command it runs: acceptance, the next step, and the words that run nothing. -/

namespace Sys2Proof.Machine

/-! ### The words that decode (R115) -/

theorem exists_decode_eq_ok_iff (w : Word) :
    (∃ i, decode w = .ok i) ↔
      w.extractLsb' 8 24 = 0 ∧
        w.extractLsb' 0 8 ∈ ([0x00, 0x01, 0x02, 0x10, 0x11, 0x12, 0x20, 0x21, 0x30, 0x31] : List (BitVec 8)) := by
  simp only [decode_eq_ok_iff, exists_and_left, mem_opcodes_iff, rsvdField, opcodeField]

/-- A word that is no command's raises ILLEGAL_CMD. -/
theorem runCommand_illegal {w : Word} (s : State) (h : ¬ ∃ i, decode w = .ok i) :
    runCommand w s = .next (s.raise .illegalCmd) := by
  cases hd : decode w with
  | ok i => exact absurd ⟨i, hd⟩ h
  | error e => exact runCommand_error s hd

/-- Settles O4: the words that decode are those the table assigns, and no two commands share an opcode. -/
theorem decodingIsTotal : Obligations.DecodingIsTotal := by
  intro w s
  rw [← exists_decode_eq_ok_iff, ← not_and_or, ← exists_decode_eq_ok_iff]
  refine ⟨runCommand_illegal s, fun ⟨i, hd⟩ => ?_⟩
  have ho : w.extractLsb' 0 8 = i.opcode := (decode_eq_ok_iff.1 hd).2
  exact ⟨i, ⟨ho.symm, runCommand_ok s hd⟩, fun j hj => opcode_injective (hj.trans ho)⟩

/-! ### Placing and accepting a word (R114) -/

theorem tableWord_toNat (w : Word) : tableWord 32 w.toNat = w := by
  rw [tableWord, Nat.mod_eq_of_lt w.isLt, BitVec.ofNat_toNat, BitVec.setWidth_eq]

theorem decodeTableWord_toNat {w : Word} {i : Instr} (h : decode w = .ok i) : decodeTableWord 32 w.toNat = some i := by
  rw [decodeTableWord, if_neg (by omega), tableWord_toNat, h]

/-- Settles O2: the word placed is the command's encoding, and `step_acceptNext` runs it. -/
theorem fetchWordRunsNext : Obligations.FetchWordRunsNext := by
  intro s i
  refine ⟨decodeTableWord_toNat (decode_encode i), ?_⟩
  rw [State.withFetchWord, tableWord_toNat, step_acceptNext, runCommand_ok _ (decode_encode i)]

theorem step_cmdWrite {s : State} {w : Word} {rest : List Input} (hi : s.inbox = .csrWrite 0x00C 4 w :: rest) :
    step s = .next { writeCsr .cmd w { s with inbox := rest } with resp := .done } :=
  step_csrWrite hi (by decide) (by decide)

theorem writeCsr_cmd_idle (w : Word) {s : State} (hb : s.busy = false) : writeCsr .cmd w s = s.accept w :=
  if_neg (by rw [hb]; decide)

/-- Settles O3: the step of a CMD write, busy and idle; nothing else waiting, the step after acceptance is the engine's. -/
theorem cmdWriteIsAcceptedWhenIdle : Obligations.CmdWriteIsAcceptedWhenIdle := by
  intro s w rest hi hp
  rw [step_cmdWrite hi]
  constructor
  · intro hb
    rw [writeCsr_droppedWhileBusy (s := { s with inbox := rest }) rfl w hb]
    rfl
  · intro hb t
    rw [writeCsr_cmd_idle w (s := { s with inbox := rest }) hb]
    refine ⟨rfl, rfl, fun hr => ?_⟩
    have ht : step t = runCommand w t := by rw [step_of_empty hr, engineStep_run (s := t) rfl hp]
    exact ht

end Sys2Proof.Machine
end

section
/-! PROOF. Which commands may change the key, the staging registers, IVREF, ITEMS, V, OUTLEN and AUTH_OK (R118). -/

namespace Sys2Proof.Machine

/-- The command `i` changes only the registers named for it from `s` to `t`; V, OUTLEN and AUTH_OK are free after a race
(R94). -/
structure State.KeepsRegisters (s : State) (i : Instr) (t : State) : Prop where
  key : i ≠ .keyLoad → i ≠ .keyClear → t.k1 = s.k1 ∧ t.k2 = s.k2 ∧ t.keyValid = s.keyValid ∧ t.keyW = s.keyW
  ivref : i ≠ .keyClear → t.ivref = s.ivref
  items : i ≠ .keyLoad → i ≠ .keyClear → i ≠ .s2vInit → i ≠ .s2vAd → t.items = s.items
  v : i ≠ .keyClear → i ≠ .s2vFinal → i ≠ .sivEncrypt → i ≠ .sivDecrypt → s.Undisturbed i → t.v = s.v
  outlen : i ≠ .ctrXform → i ≠ .sivEncrypt → i ≠ .sivDecrypt → s.Undisturbed i → t.outlen = s.outlen
  authOk : i ≠ .ivVerify → i ≠ .sivDecrypt → s.Undisturbed i → t.authOk = s.authOk

variable {s t : State} {i : Instr}

/-- A state `t` that differs from `s` in other fields only has these clauses by definition: `{ refl s i with }`. -/
theorem State.KeepsRegisters.refl (s : State) (i : Instr) : s.KeepsRegisters i s where
  key _ _ := ⟨rfl, rfl, rfl, rfl⟩
  ivref _ := rfl
  items _ _ _ _ := rfl
  v _ _ _ _ _ := rfl
  outlen _ _ _ _ := rfl
  authOk _ _ _ := rfl

theorem State.KeepsRegisters.raise (e : ErrCode) : s.KeepsRegisters i (s.raise e) := { refl s i with }

theorem State.KeepsRegisters.endSequence (h : s.KeepsRegisters i t) : s.KeepsRegisters i t.endSequence := { h with }

theorem State.KeepsRegisters.raceResult (hz : s.hazard (s.readSpans i) (s.writeSpan i) = true) (x : Span) :
    s.KeepsRegisters i (s.raceResult x) :=
  have hu (h : s.Undisturbed i) : False := absurd (hz.symm.trans h.stable) nofun
  { refl s i with
    v := fun _ _ _ _ h => (hu h).elim
    outlen := fun _ _ _ h => (hu h).elim
    authOk := fun _ _ h => (hu h).elim }

theorem keyLoad_keepsRegisters (h : execKeyLoad s = .next t) : s.KeepsRegisters .keyLoad t := by
  cases (execKeyLoad_eq s).symm.trans h
  split <;> exact { State.KeepsRegisters.refl s .keyLoad with key := by simp, items := by simp }

theorem keyClear_keepsRegisters (h : execKeyClear s = .next t) : s.KeepsRegisters .keyClear t := by
  cases h
  exact { State.KeepsRegisters.refl s .keyClear with key := by simp, ivref := by simp, items := by simp, v := by simp }

theorem s2vInit_keepsRegisters (h : execS2vInit s = .next t) : s.KeepsRegisters .s2vInit t := by
  cases (execS2vInit_eq s).symm.trans h
  split
  · exact { State.KeepsRegisters.refl s .s2vInit with items := by simp }
  · exact .raise .noKey

theorem ivVerify_keepsRegisters (h : execIvVerify s = .next t) : s.KeepsRegisters .ivVerify t := by
  cases (execIvVerify_eq s).symm.trans h
  split
  · exact { State.KeepsRegisters.refl s .ivVerify with authOk := by simp }
  · exact .raise .authFailed

theorem runS2vAd_keepsRegisters : s.KeepsRegisters .s2vAd (runS2vAd s) := by
  unfold runS2vAd
  dsimp only
  split
  · exact { State.KeepsRegisters.refl s .s2vAd with }
  · exact { State.KeepsRegisters.refl s .s2vAd with items := by simp }

theorem raceS2vAd_keepsRegisters (hz : s.hazard (s.readSpans .s2vAd) (s.writeSpan .s2vAd) = true) :
    s.KeepsRegisters .s2vAd (raceS2vAd s) := by
  unfold raceS2vAd
  dsimp only
  split
  · exact (State.KeepsRegisters.raceResult hz _).endSequence
  · exact { State.KeepsRegisters.raceResult hz ⟨0, 0⟩ with items := by simp }

theorem runS2vFinal_keepsRegisters : s.KeepsRegisters .s2vFinal (runS2vFinal s) := by
  unfold runS2vFinal
  dsimp only
  split
  · exact { State.KeepsRegisters.refl s .s2vFinal with }
  · exact { State.KeepsRegisters.refl s .s2vFinal with v := by simp }

theorem runCtrXform_keepsRegisters : s.KeepsRegisters .ctrXform (runCtrXform s) := by
  unfold runCtrXform
  dsimp only
  split
  · exact { State.KeepsRegisters.refl s .ctrXform with }
  · exact { State.KeepsRegisters.refl s .ctrXform with outlen := by simp }

theorem raceCtrXform_keepsRegisters (hz : s.hazard (s.readSpans .ctrXform) (s.writeSpan .ctrXform) = true) :
    s.KeepsRegisters .ctrXform (raceCtrXform s) := by
  have hr := State.KeepsRegisters.raceResult hz s.ctrDst
  unfold raceCtrXform
  dsimp only
  split
  · exact hr.endSequence
  · exact hr

theorem runSivEncrypt_keepsRegisters : s.KeepsRegisters .sivEncrypt (runSivEncrypt s) := by
  unfold runSivEncrypt
  dsimp only
  split
  · exact { State.KeepsRegisters.refl s .sivEncrypt with }
  · exact { State.KeepsRegisters.refl s .sivEncrypt with v := by simp, outlen := by simp }

theorem runSivDecrypt_keepsRegisters : s.KeepsRegisters .sivDecrypt (runSivDecrypt s) := by
  obtain h | ⟨h, hm⟩ | ⟨h, hm, h2⟩ | ⟨h, hm, h2⟩ := runSivDecrypt_cases s
  · rw [runSivDecrypt_bus1 h]
    exact { State.KeepsRegisters.refl s .sivDecrypt with }
  · rw [runSivDecrypt_mismatch h hm]
    exact { State.KeepsRegisters.refl s .sivDecrypt with v := by simp }
  · rw [runSivDecrypt_bus2 h hm h2]
    exact { State.KeepsRegisters.refl s .sivDecrypt with }
  · rw [runSivDecrypt_ok h hm h2]
    exact { State.KeepsRegisters.refl s .sivDecrypt with v := by simp, outlen := by simp, authOk := by simp }

theorem exec_keepsRegisters (h : exec i s = .next t) : s.KeepsRegisters i t := by
  have hrace (hz : s.hazard (s.readSpans i) (s.writeSpan i) = true) (x : Span) :=
    (State.KeepsRegisters.raceResult hz x).endSequence
  cases i with
  | nop => cases h; exact { State.KeepsRegisters.refl s .nop with }
  | keyLoad => exact keyLoad_keepsRegisters h
  | keyClear => exact keyClear_keepsRegisters h
  | s2vInit => exact s2vInit_keepsRegisters h
  | ivVerify => exact ivVerify_keepsRegisters h
  | s2vAd => exact dmaCommand_induct h .raise (fun _ => raceS2vAd_keepsRegisters) fun _ => runS2vAd_keepsRegisters
  | s2vFinal => exact dmaCommand_induct h .raise (fun _ hz => hrace hz _) fun _ => runS2vFinal_keepsRegisters
  | ctrXform =>
    exact dmaCommand_induct h .raise (fun _ => raceCtrXform_keepsRegisters) fun _ => runCtrXform_keepsRegisters
  | sivEncrypt => exact dmaCommand_induct h .raise (fun _ hz => hrace hz _) fun _ => runSivEncrypt_keepsRegisters
  | sivDecrypt => exact dmaCommand_induct h .raise (fun _ hz => hrace hz _) fun _ => runSivDecrypt_keepsRegisters

/-- Settles O42, by what every command keeps of these registers. -/
theorem commandsKeepKeyAndResultRegisters : Obligations.CommandsKeepKeyAndResultRegisters := by
  intro s t i h
  obtain ⟨hkey, hivref, hitems, hv, houtlen, hauthOk⟩ := exec_keepsRegisters h
  exact ⟨hkey, hivref, hitems, hv, houtlen, hauthOk⟩

end Sys2Proof.Machine
end

section
/-! PROOF. The lanes of the staging registers, and what the control and key commands answer. -/

namespace Sys2Proof

/-! ### The bytes the key is split from (R46, R143) -/

theorem getElem?_laneBytes (w : Word) (j : Fin 4) : (laneBytes w)[j.val]? = some (w.extractLsb' (8 * j.val) 8) := by
  simp [laneBytes]

/-- Word `i` fills the four places from `4 * i` on. -/
theorem getElem?_flatMap_laneBytes (ws : List Word) (i : Nat) (h : i < ws.length) (j : Fin 4) :
    (ws.flatMap laneBytes)[4 * i + j.val]? = some (ws[i].extractLsb' (8 * j.val) 8) := by
  induction ws generalizing i with
  | nil => simp at h
  | cons w ws ih =>
    rw [List.flatMap_cons]
    cases i with
    | zero =>
      rw [Nat.mul_zero, Nat.zero_add, List.getElem?_append_left (by simp)]
      exact getElem?_laneBytes w j
    | succ i =>
      have hi : i < ws.length := by simpa using h
      have hsub : 4 * (i + 1) + j.val - (laneBytes w).length = 4 * i + j.val := by rw [length_laneBytes]; omega
      rw [List.getElem?_append_right (by rw [length_laneBytes]; omega), hsub]
      exact ih i hi

/-- R46: byte `4 * i + j` of the staged key is lane byte `j` of KEY_Wi. -/
theorem getD_keyBuf (kw : Vector Word 16) (i : Nat) (h : i < 16) (j : Fin 4) :
    (keyBuf kw).getD (4 * i + j.val) 0 = (kw[i]).extractLsb' (8 * j.val) 8 := by
  have hb := getElem?_flatMap_laneBytes kw.toList i (by simpa using h) j
  rw [keyBuf, List.getD_eq_getElem?_getD, hb, Option.getD_some, Vector.getElem_toList]

theorem getElem?_keyAt (bs : Bytes) (n k : Nat) (h : k < 32) : (keyAt bs n)[k]? = some (bs.getD (n + k) 0) := by
  simp [keyAt, h]

/-- R143: a sub-key taken from word `m` of the staging on holds the words `m`, `m + 1`, …, `m + 7`. -/
theorem getElem?_keyAt_keyBuf (kw : Vector Word 16) (m : Nat) (hm : m ≤ 8) (i : Fin 8) (j : Fin 4) :
    (keyAt (keyBuf kw) (4 * m))[4 * i.val + j.val]? = some ((kw[m + i.val]).extractLsb' (8 * j.val) 8) := by
  have hplace : 4 * m + (4 * i.val + j.val) = 4 * (m + i.val) + j.val := by omega
  rw [getElem?_keyAt _ _ _ (by omega), hplace, getD_keyBuf kw (m + i.val) (by omega) j]

end Sys2Proof

namespace Sys2Proof.Machine

/-! ### The two outcomes of KEY_LOAD (R141) -/

variable {s : State}

theorem exec_keyLoad_of_keylen (h : s.keylen = 64) :
    exec .keyLoad s = .next (State.complete
      { s with
        keyW := zeroStaging, d := 0, s2vActive := false, items := 0,
        k1 := keyAt (keyBuf s.keyW) 0, k2 := keyAt (keyBuf s.keyW) 32, keyValid := true }) :=
  (execKeyLoad_eq s).trans (by rw [if_pos h])

theorem exec_keyLoad_of_keylen_ne (h : s.keylen ≠ 64) :
    exec .keyLoad s = .next (State.raise .invalidKeySize
      { s with
        keyW := zeroStaging, d := 0, s2vActive := false, items := 0, k1 := zeroKey, k2 := zeroKey,
        keyValid := false }) :=
  (execKeyLoad_eq s).trans (by rw [if_neg h])

/-- Settles O11, by the two outcomes above; K1 is taken from KEY_W0 on and K2 from KEY_W8 on (`getElem?_keyAt_keyBuf`). -/
theorem keyLoadSplitsOrDestroysKey : Obligations.KeyLoadSplitsOrDestroysKey := by
  intro s
  refine ⟨fun h => ⟨_, exec_keyLoad_of_keylen h, rfl, fun i j => ⟨?_, ?_⟩⟩, fun h => exec_keyLoad_of_keylen_ne h, rfl⟩
  · simpa using getElem?_keyAt_keyBuf s.keyW 0 (by decide) i j
  · exact getElem?_keyAt_keyBuf s.keyW 8 (by decide) i j

/-! ### NOP and KEY_CLEAR (R140, R145) -/

/-- Settles O10. NOP is `State.complete` by definition, so what acceptance cleared stays clear; the completion sets DONE,
and `irq` is IRQ_EN and DONE. -/
theorem nopOnlyCompletes : Obligations.NopOnlyCompletes := by
  intro s
  refine ⟨rfl, rfl, fun h => ?_⟩
  rw [State.irq, State.complete_irqEn, State.complete_done, h, Bool.and_true]

/-- Settles O12: KEY_CLEAR is this record update, by the definitions of `execKeyClear` and `State.complete`. -/
theorem keyClearDestroysKeyAndDerivedState : Obligations.KeyClearDestroysKeyAndDerivedState :=
  fun _ => rfl

end Sys2Proof.Machine
end

section
/-! PROOF. Doubling as a linear map of blocks, the padding, and the XOR into the last 16 bytes of a string. -/

namespace Sys2Proof

/-! ### Doubling (R160, R161) -/

/-- What the doubling of a block whose high bit is `c` XORs into the shifted block. -/
def reduction (c : Bool) : Block := if c then 0x87 else 0

theorem dbl_eq_shift_xor_reduction (b : Block) : dbl b = b <<< 1 ^^^ reduction b.msb := by
  rw [dbl, reduction, BitVec.msb_eq_decide]
  by_cases h : 2 ^ 127 ≤ b.toNat
  · rw [if_pos h, decide_eq_true h, if_pos rfl]
  · rw [if_neg h, decide_eq_false h, if_neg Bool.false_ne_true, BitVec.ofNat_eq_ofNat, BitVec.xor_zero]

theorem reduction_xor (c d : Bool) : reduction (c ^^ d) = reduction c ^^^ reduction d := by
  revert c d
  decide

theorem toNat_dbl (b : Block) :
    (dbl b).toNat = if 2 ^ 127 ≤ b.toNat then (2 * b.toNat % 2 ^ 128) ^^^ 0x87 else 2 * b.toNat % 2 ^ 128 := by
  have hshift : (b <<< 1).toNat = 2 * b.toNat % 2 ^ 128 := by
    rw [BitVec.toNat_shiftLeft, Nat.shiftLeft_eq, Nat.pow_one, Nat.mul_comm]
  rw [dbl]
  split
  · rw [BitVec.toNat_xor, hshift]
    rfl
  · exact hshift

theorem dbl_xor (a b : Block) : dbl (a ^^^ b) = dbl a ^^^ dbl b := by
  simp only [dbl_eq_shift_xor_reduction, BitVec.msb_xor, reduction_xor, BitVec.shiftLeft_xor_distrib]
  ac_rfl

/-- The high bit of a block stands in the low bit of its double, where the shift leaves 0. -/
theorem getLsbD_dbl_zero (b : Block) : (dbl b).getLsbD 0 = b.msb := by
  have hshift : (b <<< 1).getLsbD 0 = false := by simp
  have hreduction (c : Bool) : (reduction c).getLsbD 0 = c := by revert c; decide
  rw [dbl_eq_shift_xor_reduction, BitVec.getLsbD_xor, hshift, hreduction, Bool.false_xor]

theorem eq_zero_of_dbl_eq_zero {b : Block} (h : dbl b = 0) : b = 0 := by
  have hmsb : b.msb = false := by
    rw [← getLsbD_dbl_zero, h]
    rfl
  have hlt : ¬ 2 ^ 127 ≤ b.toNat := by simpa [BitVec.msb_eq_decide] using hmsb
  have hn := toNat_dbl b
  rw [h, if_neg hlt] at hn
  apply BitVec.eq_of_toNat_eq
  simp only [BitVec.ofNat_eq_ofNat, BitVec.toNat_ofNat, Nat.zero_mod] at hn ⊢
  omega

theorem dbl_injective : Function.Injective dbl := fun a b h =>
  BitVec.xor_eq_zero_iff.1 (eq_zero_of_dbl_eq_zero (by rw [dbl_xor, h, BitVec.xor_self]; rfl))

/-- Settles O13. Doubling is linear with kernel 0, so it is injective, and there are finitely many blocks. -/
theorem doublingIsMultiplicationByX : Obligations.DoublingIsMultiplicationByX :=
  ⟨toNat_dbl, dbl_xor, Finite.injective_iff_bijective.1 dbl_injective⟩

/-! ### The final item (R162, R163) -/

/-- R163: a string of at least 16 bytes keeps every byte before the last 16. -/
theorem getElem?_xorend_front {s : Bytes} (d : Block) {i : Nat} (hi : i < s.length - 16) :
    (xorend s d)[i]? = s[i]? := by
  rw [xorend, List.getElem?_append_left (by rw [List.length_take]; omega), List.getElem?_take_of_lt hi]

/-- R163: byte `i` of the last 16 is XORed with byte `i` of the block. -/
theorem getElem?_xorend_end {s : Bytes} (d : Block) (hs : 16 ≤ s.length) {i : Nat} (hi : i < 16) {x : Byte}
    (hx : s[s.length - 16 + i]? = some x) :
    (xorend s d)[s.length - 16 + i]? = some (x ^^^ BitVec.ofNat 8 (d.toNat / 256 ^ (15 - i))) := by
  have hfront : (s.take (s.length - 16)).length = s.length - 16 := by rw [List.length_take]; omega
  have hblock : (blockBytes d)[i]? = some (BitVec.ofNat 8 (d.toNat / 256 ^ (15 - i))) := by
    rw [List.getElem?_eq_getElem (by rwa [length_blockBytes]), getElem_blockBytes]
  rw [xorend, List.getElem?_append_right (by omega), hfront, Nat.add_sub_cancel_left, xorBytes, List.getElem?_zipWith,
    List.getElem?_drop, hx, hblock]

/-- Settles O14: `pad` by definition, `xorend` by the bytes above. -/
theorem finalItemIsPaddedOrXored : Obligations.FinalItemIsPaddedOrXored := by
  refine ⟨fun s h => ⟨?_, length_pad s h⟩, fun s d h => ⟨length_xorend s d h, ?_, ?_⟩⟩
  · rw [pad, List.append_assoc, List.singleton_append]
  · exact fun i => getElem?_xorend_front d
  · exact fun i hi x => getElem?_xorend_end d h hi

end Sys2Proof
end

section
/-! PROOF. What S2V_INIT, S2V_AD and S2V_FINAL answer: a failed pre-check, the seed, one item, a bus error. -/

namespace Sys2Proof.Machine

variable {s : State} {i : Instr}

/-- A failed pre-check of any command but KEY_LOAD raises its error and has no other effect (R232). -/
theorem exec_of_preCheck_eq_some {e : ErrCode} (hi : i ≠ .keyLoad) (hc : s.preCheck i = some e) :
    exec i s = .next (s.raise e) := by
  cases i with
  | nop | keyClear | ivVerify => cases hc
  | keyLoad => exact absurd rfl hi
  | s2vInit =>
    have hc : s.s2vInitCheck = some e := hc
    simp only [exec, execS2vInit, hc]
  | s2vAd | s2vFinal | ctrXform | sivEncrypt | sivDecrypt => exact dmaCommand_error _ _ _ _ s hc

/-! ### S2V_INIT (R174) -/

/-- Settles O15, by the two outcomes of `execS2vInit_eq`. -/
theorem s2vInitSeedsTheChain : Obligations.S2vInitSeedsTheChain := by
  refine fun s => ⟨fun h => (execS2vInit_eq s).trans ?_, fun h => (execS2vInit_eq s).trans ?_, rfl⟩
  · rw [if_pos h]
    rfl
  · rw [if_neg (by simp [h])]

/-! ### The pre-checks of S2V_AD and S2V_FINAL (R173) -/

theorem s2vItemCheck_noKey (hk : s.keyValid = false) : s.s2vItemCheck = some .noKey := by
  rw [State.s2vItemCheck, hk]
  rfl

theorem s2vItemCheck_s2vSequence (hk : s.keyValid = true) (ha : s.s2vActive = false) :
    s.s2vItemCheck = some .s2vSequence := by
  rw [State.s2vItemCheck, hk, ha]
  rfl

theorem s2vItemCheck_range (hk : s.keyValid = true) (ha : s.s2vActive = true)
    (hr : 2 ^ 64 < s.src.toNat + s.srclen.toNat) : s.s2vItemCheck = some .range := by
  have hn : s.srcSpan.inRange = false := decide_eq_false (Nat.not_le.2 hr)
  rw [State.s2vItemCheck, hk, ha, hn]
  rfl

theorem s2vItemCheck_passes (hk : s.keyValid = true) (ha : s.s2vActive = true)
    (hr : s.src.toNat + s.srclen.toNat ≤ 2 ^ 64) : s.s2vItemCheck = none :=
  (s2vItemCheck_eq_none s).2 ⟨hk, ha, s.srcSpan.inRange_iff.2 hr⟩

/-- Settles O16: both commands have one check, and its first cause that holds is raised. -/
theorem s2vItemPreChecksInOrder : Obligations.S2vItemPreChecksInOrder := by
  intro s i hi
  have hraise {e : ErrCode} (hc : s.s2vItemCheck = some e) : exec i s = .next (s.raise e) := by
    obtain rfl | rfl := hi <;> exact exec_of_preCheck_eq_some nofun hc
  exact ⟨fun hk => hraise (s2vItemCheck_noKey hk), fun hk ha => hraise (s2vItemCheck_s2vSequence hk ha),
    fun hk ha hr => hraise (s2vItemCheck_range hk ha hr)⟩

/-! ### S2V_AD and S2V_FINAL past their pre-checks (R175 to R177) -/

theorem exec_s2vAd_of_undisturbed (hc : s.s2vItemCheck = none) (hu : s.Undisturbed .s2vAd) :
    exec .s2vAd s = .next (runS2vAd s) :=
  dmaCommand_run _ _ hc hu.clearOfWindow hu.stable

theorem exec_s2vFinal_of_undisturbed (hc : s.s2vItemCheck = none) (hu : s.Undisturbed .s2vFinal) :
    exec .s2vFinal s = .next (runS2vFinal s) :=
  dmaCommand_run _ _ hc hu.clearOfWindow hu.stable

/-- R39: ITEMS saturates at 2^32 − 1. -/
theorem bumpItems_eq_ofNat_min (n : Word) : bumpItems n = BitVec.ofNat 32 (min (n.toNat + 1) (2 ^ 32 - 1)) := by
  have hlt := n.isLt
  apply BitVec.eq_of_toNat_eq
  rw [bumpItems]
  split
  · next h =>
    subst h
    decide
  · next h =>
    have hne : n.toNat ≠ 2 ^ 32 - 1 := fun he => h (BitVec.eq_of_toNat_eq (by simpa using he))
    rw [BitVec.toNat_add, BitVec.toNat_ofNat, min_eq_left (by omega)]
    rfl

/-- Settles O17: one absorption, and the saturating successor of ITEMS. -/
theorem s2vAdAbsorbsItem : Obligations.S2vAdAbsorbsItem := by
  intro s hk ha hr hu hb
  rw [exec_s2vAd_of_undisturbed (s2vItemCheck_passes hk ha hr) hu, runS2vAd_ok hb, bumpItems_eq_ofNat_min]
  rfl

/-- Settles O18: V is the MAC of `s2vLast`, whose branch is on the item's length. -/
theorem s2vFinalWritesSyntheticIv : Obligations.S2vFinalWritesSyntheticIv := by
  intro s hk ha hr hu hb m
  rw [exec_s2vFinal_of_undisturbed (s2vItemCheck_passes hk ha hr) hu, runS2vFinal_ok hb, s2vLast, s.length_srcBytes]
  rfl

/-- Settles O19: both commands end as `State.busError` says, the access consumed. -/
theorem s2vBusErrorEndsTheSequence : Obligations.S2vBusErrorEndsTheSequence := by
  intro s i hi hk ha hr hu hb
  have hc := s2vItemCheck_passes hk ha hr
  obtain rfl | rfl := hi
  · rw [exec_s2vAd_of_undisturbed hc hu, runS2vAd_bus hb]
    rfl
  · rw [exec_s2vFinal_of_undisturbed hc hu, runS2vFinal_bus hb]
    rfl

end Sys2Proof.Machine
end

section
/-! PROOF. The S2V commands, issued one after the other over any list of items, compute S2V (R169). -/

namespace Sys2Proof.Machine

variable {s t : State} {i : Instr} {x : DWord × DWord} {ads : List Bytes}

/-- The item lies in the DMA space and clear of the CSR window. -/
def ItemClear (x : DWord × DWord) : Prop :=
  x.1.toNat + x.2.toNat ≤ 2 ^ 64 ∧ Span.overlaps ⟨x.1.toNat, x.2.toNat⟩ windowSpan = false

/-- The surroundings disturb no command: no device, no byte that waits in the host's caches, no error of the bus. -/
structure State.Calm (s : State) : Prop where
  devices : s.devices = []
  hostDirty : s.hostDirty = []
  busAnswers : ∀ b ∈ s.busAnswers, b = false

/-- S2V_INIT on `s`, and S2V_AD over the items `ads`, have led to `t`. -/
structure State.Absorbed (s : State) (ads : List Bytes) (t : State) : Prop where
  calm : t.Calm
  keyValid : t.keyValid = true
  active : t.s2vActive = true
  k1 : t.k1 = s.k1
  mem : t.mem = s.mem
  d : t.d = ads.foldl (s2vAbsorb Config.mac s.k1) (s2vSeed Config.mac s.k1)
  items : t.items = BitVec.ofNat 32 (min ads.length (2 ^ 32 - 1))

/-- The state in which a command issued on the item `x` runs. -/
def State.issue (s : State) (i : Instr) (x : DWord × DWord) : State :=
  State.accept (encode i) { s with src := x.1, srclen := x.2 }

theorem runItem_eq_exec_issue (i : Instr) (x : DWord × DWord) (s : State) : runItem i x s = exec i (s.issue i x) := rfl

/-- Nothing decides what a command does on an item clear of the window but its rule, when the surroundings are calm. -/
theorem State.Calm.undisturbed_issue (h : s.Calm) (hx : ItemClear x) (hi : i = .s2vAd ∨ i = .s2vFinal) :
    (s.issue i x).Undisturbed i := by
  have hread : (s.issue i x).readSpans i = [⟨x.1.toNat, x.2.toNat⟩] := by obtain rfl | rfl := hi <;> rfl
  have hwrite : (s.issue i x).writeSpan i = ⟨0, 0⟩ := by obtain rfl | rfl := hi <;> rfl
  have hempty : Span.overlaps ⟨0, 0⟩ windowSpan = false := rfl
  constructor
  · simp [hread, hwrite, windowHit, hempty, hx.2]
  · simp [State.hazard, State.issue, h.devices, h.hostDirty]

theorem State.Calm.busFails (h : s.Calm) (lens : List Nat) : busFails lens s.busAnswers = false :=
  busFails_noErrors lens s.busAnswers h.busAnswers

theorem saturating_succ (n : Nat) :
    min ((BitVec.ofNat 32 (min n (2 ^ 32 - 1))).toNat + 1) (2 ^ 32 - 1) = min (n + 1) (2 ^ 32 - 1) := by
  rw [BitVec.toNat_ofNat]
  omega

theorem exec_s2vInit_absorbed (hs : s.Calm) (hk : s.keyValid = true) :
    ∃ t, exec .s2vInit s = .next t ∧ s.Absorbed [] t :=
  ⟨_, (s2vInitSeedsTheChain s).1 hk,
    { calm := { hs with }, keyValid := hk, active := rfl, k1 := rfl, mem := rfl, d := rfl, items := rfl }⟩

/-- One S2V_AD adds its item to those absorbed. -/
theorem runItem_s2vAd_absorbed (h : s.Absorbed ads t) (hx : ItemClear x) :
    ∃ u, runItem .s2vAd x t = .next u ∧
      s.Absorbed (ads ++ [Memory.readBytes s.mem x.1.toNat x.2.toNat]) u := by
  have hrun := s2vAdAbsorbsItem (t.issue .s2vAd x) h.keyValid h.active hx.1 (h.calm.undisturbed_issue hx (.inl rfl))
    (h.calm.busFails _)
  refine ⟨_, (runItem_eq_exec_issue .s2vAd x t).trans hrun, ?_⟩
  exact {
    calm := { h.calm with busAnswers := busRest_noErrors _ _ h.calm.busAnswers }
    keyValid := h.keyValid
    active := h.active
    k1 := h.k1
    mem := h.mem
    d := by
      rw [List.foldl_append, ← h.d, ← h.k1, ← h.mem]
      rfl
    items := by
      rw [List.length_append, List.length_singleton, ← saturating_succ ads.length, ← h.items]
      rfl }

theorem runItems_absorbed {items : List (DWord × DWord)} (h : s.Absorbed ads t)
    (hitems : ∀ x ∈ items, ItemClear x) :
    ∃ u, runItems items t = .next u ∧
      s.Absorbed (ads ++ items.map fun x => Memory.readBytes s.mem x.1.toNat x.2.toNat) u := by
  induction items generalizing ads t with
  | nil => exact ⟨t, rfl, by simpa using h⟩
  | cons x xs ih =>
    obtain ⟨hx, hxs⟩ := List.forall_mem_cons.1 hitems
    obtain ⟨u, hu, hau⟩ := runItem_s2vAd_absorbed h hx
    obtain ⟨z, hz, haz⟩ := ih hau hxs
    exact ⟨z, by rw [runItems, hu]; exact hz, by simpa using haz⟩

/-- S2V_FINAL on the last item, after the items `ads`. -/
theorem runItem_s2vFinal_absorbed (h : s.Absorbed ads t) (hx : ItemClear x) :
    ∃ z, runItem .s2vFinal x t = .next z ∧
      z.v = s2v Config.mac s.k1 ads (Memory.readBytes s.mem x.1.toNat x.2.toNat) ∧
      z.s2vActive = false ∧ z.d = 0 ∧ z.mem = s.mem ∧ z.err = false ∧
      z.items = BitVec.ofNat 32 (min ads.length (2 ^ 32 - 1)) := by
  have hrun := exec_s2vFinal_of_undisturbed (s := t.issue .s2vFinal x)
    (s2vItemCheck_passes h.keyValid h.active hx.1) (h.calm.undisturbed_issue hx (.inr rfl))
  rw [runS2vFinal_ok (s := t.issue .s2vFinal x) (h.calm.busFails _)] at hrun
  refine ⟨_, (runItem_eq_exec_issue .s2vFinal x t).trans hrun, ?_, rfl, rfl, h.mem, rfl, h.items⟩
  rw [s2v, ← h.d, ← h.k1, ← h.mem]
  rfl

/-- Settles O20, by induction on the list of items. -/
theorem s2vCommandsComputeS2v : Obligations.S2vCommandsComputeS2v := by
  intro s items last hk hdev hdirty hbus hx
  obtain ⟨hlast, hitems⟩ := List.forall_mem_cons.1 hx
  obtain ⟨t, ht, hat⟩ := exec_s2vInit_absorbed ⟨hdev, hdirty, hbus⟩ hk
  obtain ⟨u, hu, hau⟩ := runItems_absorbed hat hitems
  obtain ⟨z, hz, hv, ha, hd, hm, he, hn⟩ := runItem_s2vFinal_absorbed hau hlast
  exact ⟨t, u, z, ht, hu, hz, hv, ha, hd, hm, he, by simpa using hn⟩

end Sys2Proof.Machine
end

section
/-! PROOF. How each command leaves an S2V sequence (R170). -/

namespace Sys2Proof.Machine

variable {s t : State} {i : Instr}

def State.SequenceActive (t : State) : Prop := t.s2vActive = true

/-- No sequence is active, and the accumulator is 0^16. -/
def State.SequenceEnded (t : State) : Prop := t.s2vActive = false ∧ t.d = 0

/-- `t` stands in the sequence of `s`. -/
def State.SequenceKept (s t : State) : Prop := t.s2vActive = s.s2vActive ∧ t.d = s.d

/-- A bus error ended the sequence; without one `P` holds. -/
def EndedByBusErrorOr (P : State → Prop) (t : State) : Prop :=
  (t.errCode = .busError ∧ t.SequenceEnded) ∨ (t.errCode ≠ .busError ∧ P t)

/-- What the command `i` makes of the sequence of `s`. -/
inductive State.SequenceAfter (s : State) (i : Instr) (t : State) : Prop
  /-- A failed pre-check, other than KEY_LOAD's, keeps it (R232). -/
  | failed (e : ErrCode) (check : s.preCheck i = some e) (keyLoad : i ≠ .keyLoad) (code : t.errCode ≠ .busError)
    (kept : s.SequenceKept t)
  | kept (command : i = .nop ∨ i = .ivVerify ∨ i = .ctrXform) (code : t.errCode ≠ .busError)
    (kept : s.SequenceKept t)
  | active (command : i = .s2vInit ∨ i = .s2vAd) (check : s.preCheck i = none) (code : t.errCode ≠ .busError)
    (active : t.SequenceActive)
  | ended (command : i = .keyLoad ∨ i = .keyClear ∨
      ((i = .s2vFinal ∨ i = .sivEncrypt ∨ i = .sivDecrypt) ∧ s.preCheck i = none))
    (ended : t.SequenceEnded)
  | busError (command : i = .s2vAd ∨ i = .ctrXform) (check : s.preCheck i = none) (code : t.errCode = .busError)
    (ended : t.SequenceEnded)

/-! ### The codes of the pre-checks -/

theorem exists_mem_of_firstError {l : List (Bool × ErrCode)} {e : ErrCode} (h : firstError l = some e) :
    ∃ b, (b, e) ∈ l := by
  induction l with
  | nil => cases h
  | cons p l ih =>
    obtain ⟨b, c⟩ := p
    cases b with
    | true => cases h; exact ⟨true, List.mem_cons_self⟩
    | false =>
      obtain ⟨b, hb⟩ := ih h
      exact ⟨b, List.mem_cons_of_mem _ hb⟩

/-- A pre-check makes no access, so it reports no bus error. -/
theorem preCheck_ne_busError {e : ErrCode} (h : s.preCheck i = some e) : e ≠ .busError := by
  rintro rfl
  cases i with
  | nop | keyClear | ivVerify => cases h
  | _ =>
    obtain ⟨b, hb⟩ := exists_mem_of_firstError h
    simp at hb

/-! ### The commands past their pre-checks -/

theorem keyLoad_ended (h : execKeyLoad s = .next t) : t.SequenceEnded := by
  cases (execKeyLoad_eq s).symm.trans h
  split <;> exact ⟨rfl, rfl⟩

theorem runS2vAd_sequence (hn : s.errCode = .none) (ha : s.s2vActive = true) :
    EndedByBusErrorOr State.SequenceActive (runS2vAd s) := by
  cases hb : busFails [s.srclen.toNat] s.busAnswers with
  | true => rw [runS2vAd_bus hb]; exact .inl ⟨rfl, rfl, rfl⟩
  | false => rw [runS2vAd_ok hb]; exact .inr ⟨by simp [hn], ha⟩

theorem raceS2vAd_sequence (ha : s.s2vActive = true) :
    EndedByBusErrorOr State.SequenceActive (raceS2vAd s) := by
  unfold raceS2vAd
  dsimp only
  split
  · next hb => exact .inl ⟨hb, rfl, rfl⟩
  · next hb => exact .inr ⟨hb, ha⟩

theorem runCtrXform_sequence (hn : s.errCode = .none) :
    EndedByBusErrorOr s.SequenceKept (runCtrXform s) := by
  cases hb : busFails [s.srclen.toNat, s.srclen.toNat] s.busAnswers with
  | true => rw [runCtrXform_bus hb]; exact .inl ⟨rfl, rfl, rfl⟩
  | false => rw [runCtrXform_ok hb]; exact .inr ⟨by simp [hn], rfl, rfl⟩

theorem raceCtrXform_sequence : EndedByBusErrorOr s.SequenceKept (raceCtrXform s) := by
  unfold raceCtrXform
  dsimp only
  split
  · next hb => exact .inl ⟨hb, rfl, rfl⟩
  · next hb => exact .inr ⟨hb, rfl, rfl⟩

theorem runS2vFinal_ended : (runS2vFinal s).SequenceEnded := by
  unfold runS2vFinal
  dsimp only
  split <;> exact ⟨rfl, rfl⟩

theorem runSivEncrypt_ended : (runSivEncrypt s).SequenceEnded := by
  unfold runSivEncrypt
  dsimp only
  split <;> exact ⟨rfl, rfl⟩

theorem runSivDecrypt_ended : (runSivDecrypt s).SequenceEnded := by
  obtain h | ⟨h, hm⟩ | ⟨h, hm, h2⟩ | ⟨h, hm, h2⟩ := runSivDecrypt_cases s
  · rw [runSivDecrypt_bus1 h]
    exact ⟨rfl, rfl⟩
  · rw [runSivDecrypt_mismatch h hm]
    exact ⟨rfl, rfl⟩
  · rw [runSivDecrypt_bus2 h hm h2]
    exact ⟨rfl, rfl⟩
  · rw [runSivDecrypt_ok h hm h2]
    exact ⟨rfl, rfl⟩

/-! ### Every command -/

/-- What a passing command with DMA ranges answers has a property that both its ways past the pre-check have. -/
theorem dmaCommand_passed {P : State → Prop} {check : Option ErrCode} {reads : List Span} {write : Span}
    {race run : State → State} (hc : check = none) (h : dmaCommand check reads write race run s = .next t)
    (hrace : P (race s)) (hrun : P (run s)) : P t := by
  obtain ⟨e, he, -⟩ | ⟨-, -, -, rfl⟩ | ⟨-, -, -, rfl⟩ := dmaCommand_next h
  · cases hc.symm.trans he
  · exact hrace
  · exact hrun

theorem exec_sequence_of_passed (hc : s.preCheck i = none) (hn : s.errCode = .none) (h : exec i s = .next t) :
    s.SequenceAfter i t := by
  cases i with
  | nop => cases h; exact .kept (.inl rfl) (by simp [hn]) ⟨rfl, rfl⟩
  | keyClear => cases h; exact .ended (.inr (.inl rfl)) ⟨rfl, rfl⟩
  | keyLoad => exact .ended (.inl rfl) (keyLoad_ended h)
  | s2vInit =>
    cases (execS2vInit_eq s).symm.trans h
    rw [if_pos ((s2vInitCheck_eq_none s).1 hc)]
    exact .active (.inl rfl) hc (by simp [hn]) rfl
  | ivVerify =>
    cases (execIvVerify_eq s).symm.trans h
    split
    · exact .kept (.inr (.inl rfl)) (by simp [hn]) ⟨rfl, rfl⟩
    · exact .kept (.inr (.inl rfl)) nofun ⟨rfl, rfl⟩
  | s2vAd =>
    obtain ⟨-, ha, -⟩ := (s2vItemCheck_eq_none s).1 hc
    have hs : EndedByBusErrorOr State.SequenceActive t :=
      dmaCommand_passed hc h (raceS2vAd_sequence ha) (runS2vAd_sequence hn ha)
    obtain ⟨hb, he⟩ | ⟨hb, ha⟩ := hs
    · exact .busError (.inl rfl) hc hb he
    · exact .active (.inr rfl) hc hb ha
  | ctrXform =>
    have hs : EndedByBusErrorOr s.SequenceKept t :=
      dmaCommand_passed hc h raceCtrXform_sequence (runCtrXform_sequence hn)
    obtain ⟨hb, he⟩ | ⟨hb, hk⟩ := hs
    · exact .busError (.inr rfl) hc hb he
    · exact .kept (.inr (.inr rfl)) hb hk
  | s2vFinal =>
    exact .ended (.inr (.inr ⟨.inl rfl, hc⟩)) (dmaCommand_passed hc h ⟨rfl, rfl⟩ runS2vFinal_ended)
  | sivEncrypt =>
    exact .ended (.inr (.inr ⟨.inr (.inl rfl), hc⟩)) (dmaCommand_passed hc h ⟨rfl, rfl⟩ runSivEncrypt_ended)
  | sivDecrypt =>
    exact .ended (.inr (.inr ⟨.inr (.inr rfl), hc⟩)) (dmaCommand_passed hc h ⟨rfl, rfl⟩ runSivDecrypt_ended)

theorem exec_sequence (hn : s.errCode = .none) (h : exec i s = .next t) : s.SequenceAfter i t := by
  cases hc : s.preCheck i with
  | none => exact exec_sequence_of_passed hc hn h
  | some e =>
    by_cases hi : i = .keyLoad
    · subst hi
      exact .ended (.inl rfl) (keyLoad_ended h)
    · cases (exec_of_preCheck_eq_some hi hc).symm.trans h
      exact .failed e hc hi (preCheck_ne_busError hc) ⟨rfl, rfl⟩

/-- Settles O21, by the ways a command can leave the sequence; a reset clears both fields by definition. -/
theorem sequenceEndsExactlyWhereListed : Obligations.SequenceEndsExactlyWhereListed := by
  intro s t i h hn
  cases exec_sequence hn h with
  | failed e hc hi hb hk =>
    have hp : s.preCheck i ≠ none := by simp [hc]
    refine ⟨fun _ h => absurd h hp, fun _ h => absurd h hp, ?_, fun _ => hk, rfl, rfl⟩
    rintro (rfl | rfl | ⟨-, h⟩ | h)
    · exact absurd rfl hi
    · cases hc
    · exact absurd h hp
    · exact absurd h hb
  | kept hi hb hk => obtain rfl | rfl | rfl := hi <;> exact ⟨nofun, nofun, by simp [hb], fun _ => hk, rfl, rfl⟩
  | active hi hc hb ha =>
    obtain rfl | rfl := hi <;> exact ⟨fun _ _ => ha, fun _ _ _ => ha, by simp [hb, hc], by simp [hc], rfl, rfl⟩
  | ended hi he =>
    obtain rfl | rfl | ⟨hi, hc⟩ := hi
    · exact ⟨nofun, nofun, fun _ => he, by simp, rfl, rfl⟩
    · exact ⟨nofun, nofun, fun _ => he, by simp [State.preCheck], rfl, rfl⟩
    · obtain rfl | rfl | rfl := hi <;> exact ⟨nofun, nofun, fun _ => he, by simp [hc], rfl, rfl⟩
  | busError hi hc hb he =>
    obtain rfl | rfl := hi <;> exact ⟨nofun, by simp [hb], fun _ => he, by simp [hb, hc], rfl, rfl⟩

end Sys2Proof.Machine
end

section
/-! PROOF. The counter mask and the counter (R190, R192, R195), and that counter mode and SIV undo themselves. -/

namespace Sys2Proof

/-! ### The mask and the counter -/

theorem extractLsb'_qMask (k : Fin 16) :
    qMask.extractLsb' (8 * (15 - k.val)) 8 = if k.val = 8 ∨ k.val = 12 then 0x7F else BitVec.allOnes 8 := by
  revert k
  decide

/-- The mask acts on each byte of the block by itself. -/
theorem getElem_blockBytes_mask (iv : Block) (k : Nat) (hk : k < 16) :
    (blockBytes (mask iv))[k]'(by simpa using hk) =
      if k = 8 ∨ k = 12 then (blockBytes iv)[k]'(by simpa using hk) &&& 0x7F
      else (blockBytes iv)[k]'(by simpa using hk) := by
  rw [Machine.getElem_blockBytes_field, Machine.getElem_blockBytes_field, mask, BitVec.extractLsb'_and,
    extractLsb'_qMask ⟨k, hk⟩]
  split
  · rfl
  · exact BitVec.and_allOnes

/-- Settles O22, byte by byte. -/
theorem maskClearsTwoBits : Obligations.MaskClearsTwoBits := by
  intro iv
  refine ⟨rfl, List.ext_getElem (by simp) fun k hk _ => ?_⟩
  rw [getElem_blockBytes_mask iv k (by simpa using hk), List.getElem_modify, List.getElem_modify]
  by_cases h8 : k = 8
  · simp [h8]
  · by_cases h12 : k = 12
    · simp [h12]
    · rw [if_neg (by simp [h8, h12]), if_neg (Ne.symm h12), if_neg (Ne.symm h8)]

/-- R190: bit 63 of the masked IV is clear, which leaves room below bit 64. -/
theorem toNat_mask_mod_lt (iv : Block) : (mask iv).toNat % 2 ^ 64 < 2 ^ 63 := by
  have hbit : (mask iv).toNat.testBit 63 = false := by
    rw [BitVec.testBit_toNat, mask, BitVec.getLsbD_and, show qMask.getLsbD 63 = false by decide, Bool.and_false]
  rw [Nat.testBit_eq_decide_div_mod_eq, decide_eq_false_iff_not] at hbit
  omega

/-- Settles O23: the low half of the masked IV and the index are both below 2^63, so the sum stays in the low half. -/
theorem counterNeverWrapsInOneCommand : Obligations.CounterNeverWrapsInOneCommand := by
  intro iv j hj
  have hlow := toNat_mask_mod_lt iv
  have hlt := (mask iv).isLt
  have hj' : (BitVec.ofNat 128 j).toNat = j := by rw [BitVec.toNat_ofNat]; omega
  refine ⟨by omega, ?_⟩
  rw [counter, BitVec.toNat_add_of_lt (by omega), hj']

/-! ### Counter mode and SIV -/

theorem ctr_ctr (e : Key → Block → Block) (k : Key) (iv : Block) (m : Bytes) : ctr e k iv (ctr e k iv m) = m := by
  rw [ctr, length_ctr, ctr, xorBytes_xorBytes m _ (by simp)]

/-- Settles O24: both runs XOR with the same keystream. -/
theorem ctrIsAnInvolution : Obligations.CtrIsAnInvolution :=
  fun e k iv m => ⟨ctr_ctr e k iv m, length_ctr e k iv m⟩

/-- Settles O25: decryption recovers the IV and with it the message, whose S2V is that IV again. -/
theorem sivDecryptionInvertsEncryption : Obligations.SivDecryptionInvertsEncryption := by
  intro mac e k1 k2 a m
  have htake : (sivEnc mac e k1 k2 a m).take 16 = blockBytes (s2v mac k1 [a] m) := List.take_left' (length_blockBytes _)
  have hdrop : (sivEnc mac e k1 k2 a m).drop 16 = ctr e k2 (s2v mac k1 [a] m) m := List.drop_left' (length_blockBytes _)
  simp only [sivDec, htake, hdrop, bytesBlock_blockBytes, ctr_ctr, ctEq_self, if_true]

end Sys2Proof
end

section
/-! PROOF. CTR_XFORM and IV_VERIFY: the pre-checks, the transformed buffer, the comparison (R201, R203). -/

namespace Sys2Proof.Machine

variable {s : State}

/-! ### The pre-checks of CTR_XFORM -/

theorem ctrCheck_noKey (hk : s.keyValid = false) : s.ctrCheck = some .noKey := by
  rw [State.ctrCheck, hk]
  rfl

theorem ctrCheck_range (hk : s.keyValid = true)
    (hr : 2 ^ 64 < s.src.toNat + s.srclen.toNat ∨ 2 ^ 64 < s.dst.toNat + s.srclen.toNat) :
    s.ctrCheck = some .range := by
  have hn : (!s.srcSpan.inRange || !s.ctrDst.inRange) = true := by
    rw [← Bool.not_and, Bool.not_eq_true', ← Bool.not_eq_true, Bool.and_eq_true, Span.inRange_iff, Span.inRange_iff]
    dsimp only [State.srcSpan, State.ctrDst]
    omega
  rw [State.ctrCheck, hk, hn]
  rfl

theorem ctrCheck_overlap (hk : s.keyValid = true) (hs : s.srcSpan.inRange = true) (hd : s.ctrDst.inRange = true)
    (hne : s.dst ≠ s.src) (ho : s.ctrDst.overlaps s.srcSpan = true) : s.ctrCheck = some .overlap := by
  rw [State.ctrCheck, hk, hs, hd, bne_iff_ne.2 hne, ho]
  rfl

/-- Settles O26: the first cause that holds is raised. -/
theorem ctrXformPreChecksInOrder : Obligations.CtrXformPreChecksInOrder := by
  intro s n
  have hraise {e : ErrCode} (hc : s.ctrCheck = some e) : exec .ctrXform s = .next (s.raise e) :=
    exec_of_preCheck_eq_some nofun hc
  refine ⟨fun hk => hraise (ctrCheck_noKey hk), fun hk hr => hraise (ctrCheck_range hk hr),
    fun hk hs hd hne hn hds hsd => hraise ?_⟩
  exact ctrCheck_overlap hk ((Span.inRange_iff _).2 hs) ((Span.inRange_iff _).2 hd) hne
    ((Span.overlaps_iff _ _).2 ⟨hn, hn, hds, hsd⟩)

/-! ### CTR_XFORM past its pre-checks -/

theorem ctrCheck_passes (hk : s.keyValid = true) (hs : s.src.toNat + s.srclen.toNat ≤ 2 ^ 64)
    (hd : s.dst.toNat + s.srclen.toNat ≤ 2 ^ 64)
    (hp : s.dst = s.src ∨ s.srclen = 0 ∨ s.src.toNat + s.srclen.toNat ≤ s.dst.toNat ∨
      s.dst.toNat + s.srclen.toNat ≤ s.src.toNat) : s.ctrCheck = none := by
  refine (ctrCheck_eq_none s).2 ⟨hk, ⟨(Span.inRange_iff _).2 hs, (Span.inRange_iff _).2 hd⟩, hp.imp_right fun hp => ?_⟩
  rw [← Bool.not_eq_true, Span.overlaps_iff]
  dsimp only [State.srcSpan, State.ctrDst]
  obtain h0 | hp := hp
  · simp [h0]
  · omega

theorem exec_ctrXform_of_undisturbed (hc : s.ctrCheck = none) (hu : s.Undisturbed .ctrXform) :
    exec .ctrXform s = .next (runCtrXform s) :=
  dmaCommand_run _ _ hc hu.clearOfWindow hu.stable

/-- A write of `n` bytes from `a` on: they stand there, and nothing outside changes. -/
theorem Memory.writeBytes_range {m : Memory} {a n : Nat} {bs : Bytes} (hm : Memory.wf m = true)
    (hl : bs.length = n) (hn : a + n ≤ dmaTop) :
    Memory.readBytes (Memory.writeBytes m a bs) a n = bs ∧
      ∀ x, ¬ Span.has ⟨a, n⟩ x → Memory.read (Memory.writeBytes m a bs) x = Memory.read m x := by
  subst hl
  exact ⟨Memory.readBytes_writeBytes hm hn, fun _ => Memory.read_writeBytes_out⟩

/-- Settles O27: the input is read whole before the write, so it does not matter whether the ranges are one. -/
theorem ctrXformTransformsTheBuffer : Obligations.CtrXformTransformsTheBuffer := by
  intro s hk hs hd hp hm hu hb
  have hc := ctrCheck_passes hk hs hd hp
  have ht := exec_ctrXform_of_undisturbed hc hu
  rw [runCtrXform_ok hb] at ht
  obtain ⟨hin, hout⟩ := Memory.writeBytes_range hm s.length_ctrOutput hd
  exact ⟨_, ht, hin, hout, rfl⟩

/-! ### IV_VERIFY -/

/-- Settles O28: the comparison is equality of blocks (`ctEq_iff`), and no key is looked at. -/
theorem ivVerifyComparesWholeBlocks : Obligations.IvVerifyComparesWholeBlocks := by
  refine fun s => ⟨fun h => (execIvVerify_eq s).trans ?_, fun h => (execIvVerify_eq s).trans ?_, rfl⟩
  · rw [if_pos ((ctEq_iff _ _).2 h)]
    rfl
  · rw [if_neg (mt (ctEq_iff _ _).1 h)]

end Sys2Proof.Machine
end

section
/-! PROOF. SIV_ENCRYPT and SIV_DECRYPT: the pre-checks, and what each leaves past them (R204 to R212). -/

namespace Sys2Proof.Machine

variable {s : State} {i : Instr} {lo : Nat}

/-! ### The pre-checks -/

/-- `i` is a compound command, and `lo` the length of its output (R204). -/
def State.CompoundOutput (s : State) (i : Instr) (lo : Nat) : Prop :=
  (i = .sivEncrypt ∧ lo = 16 + s.srclen.toNat) ∨ (i = .sivDecrypt ∧ lo = s.srclen.toNat - 16)

/-- R204: the two compound commands have one list of tests; an input is too short for SIV_DECRYPT only. -/
theorem preCheck_compound (h : s.CompoundOutput i lo) :
    s.preCheck i = firstError
      [(!s.keyValid, .noKey),
       (decide (i = .sivDecrypt ∧ s.srclen.toNat < 16), .invalidCiphertext),
       (!s.srcSpan.inRange || !s.aadSpan.inRange || !Span.inRange ⟨s.dst.toNat, lo⟩, .range),
       (Span.overlaps ⟨s.dst.toNat, lo⟩ s.srcSpan || Span.overlaps ⟨s.dst.toNat, lo⟩ s.aadSpan, .overlap)] := by
  obtain ⟨rfl, rfl⟩ | ⟨rfl, rfl⟩ := h
  · rfl
  · simp only [true_and]
    rfl

theorem outOfRange_iff (s : State) (lo : Nat) :
    (!s.srcSpan.inRange || !s.aadSpan.inRange || !Span.inRange ⟨s.dst.toNat, lo⟩) = true ↔
      2 ^ 64 < s.src.toNat + s.srclen.toNat ∨ 2 ^ 64 < s.aad.toNat + s.aadlen.toNat ∨ 2 ^ 64 < s.dst.toNat + lo := by
  simp only [Bool.or_eq_true, Bool.not_eq_true', ← Bool.not_eq_true, Span.inRange_iff, Nat.not_le, or_assoc]
  rfl

/-- Settles O29: the first cause that holds is raised. -/
theorem compoundPreChecksInOrder : Obligations.CompoundPreChecksInOrder := by
  intro s i lo h n la tooShort outOfRange overlapping
  have hc := preCheck_compound h
  have hraise {e : ErrCode} (he : s.preCheck i = some e) : exec i s = .next (s.raise e) := by
    obtain ⟨rfl, -⟩ | ⟨rfl, -⟩ := h <;> exact exec_of_preCheck_eq_some nofun he
  refine ⟨fun hk => hraise ?_, fun hk ht => hraise ?_, fun hk ht hr => hraise ?_, fun hk ht hr ho => hraise ?_⟩
  · rw [hc, hk]
    rfl
  · rw [hc, hk, decide_eq_true ht]
    rfl
  · rw [hc, hk, decide_eq_false ht, (outOfRange_iff s lo).2 hr]
    rfl
  · have hr := Bool.eq_false_iff.2 (mt (outOfRange_iff s lo).1 hr)
    have ho := (Bool.or_eq_true (Span.overlaps _ s.srcSpan) (Span.overlaps _ s.aadSpan)).mpr ho
    rw [hc, hk, decide_eq_false ht, hr, ho]
    rfl

/-! ### SIV_ENCRYPT past its pre-checks -/

theorem exec_sivEncrypt_of_undisturbed (hc : s.preCheck .sivEncrypt = none) (hu : s.Undisturbed .sivEncrypt) :
    exec .sivEncrypt s = .next (runSivEncrypt s) :=
  dmaCommand_run _ _ hc hu.clearOfWindow hu.stable

/-- The output length of SIV_ENCRYPT fits OUTLEN: were it 2^64, the output would fill the DMA space and overlap the
message. -/
theorem toNat_srclen_add_sixteen (hc : s.preCheck .sivEncrypt = none) :
    (s.srclen + 16).toNat = 16 + s.srclen.toNat := by
  obtain ⟨-, ⟨hs, -, hd⟩, ho, -⟩ := (encCheck_eq_none s).1 hc
  rw [Span.inRange_iff] at hs hd
  rw [← Bool.not_eq_true, Span.overlaps_iff] at ho
  dsimp only [State.srcSpan, State.encDst] at hs hd ho
  have h16 : (16 : DWord).toNat = 16 := rfl
  rw [BitVec.toNat_add_of_lt (by omega), h16, Nat.add_comm]

/-- What an undisturbed SIV_ENCRYPT without a bus error leaves: memory that holds the output in its range, and the
registers it writes. -/
theorem exec_sivEncrypt_ok (hc : s.preCheck .sivEncrypt = none) (hm : Memory.wf s.mem = true)
    (hu : s.Undisturbed .sivEncrypt)
    (hb : busFails [s.aadlen.toNat, s.srclen.toNat, s.srclen.toNat, 16 + s.srclen.toNat] s.busAnswers = false) :
    ∃ mem stale,
      exec .sivEncrypt s = .next
        { s with
          mem := mem, hostStale := stale
          busAnswers := busRest [s.aadlen.toNat, s.srclen.toNat, s.srclen.toNat, 16 + s.srclen.toNat] s.busAnswers
          v := s.encIv, outlen := s.srclen + 16, d := 0, s2vActive := false
          stage := .idle, done := true, raced := false } ∧
      Memory.wf mem = true ∧ Memory.readBytes mem s.dst.toNat (16 + s.srclen.toNat) = s.encOutput ∧
      ∀ x, ¬ s.encDst.has x → Memory.read mem x = Memory.read s.mem x := by
  have hd : s.dst.toNat + (16 + s.srclen.toNat) ≤ dmaTop := writeSpan_inRange hc
  have ht := exec_sivEncrypt_of_undisturbed hc hu
  rw [runSivEncrypt_ok hb] at ht
  have hl := s.length_encOutput
  exact ⟨_, _, ht, Memory.wf_writeBytes hm (by rwa [hl]), Memory.writeBytes_range hm hl hd⟩

/-- Settles O30: the output is SIV_ENC by definition. -/
theorem sivEncryptWritesIvThenBody : Obligations.SivEncryptWritesIvThenBody := by
  intro s hc hm hu hb a m
  obtain ⟨mem, stale, ht, -, hin, hout⟩ := exec_sivEncrypt_ok hc hm hu hb
  exact ⟨_, ht, hin, hout, rfl, toNat_srclen_add_sixteen hc, rfl⟩

/-! ### SIV_DECRYPT past its pre-checks -/

theorem exec_sivDecrypt_of_undisturbed (hc : s.preCheck .sivDecrypt = none) (hu : s.Undisturbed .sivDecrypt) :
    exec .sivDecrypt s = .next (runSivDecrypt s) :=
  dmaCommand_run _ _ hc hu.clearOfWindow hu.stable

theorem sivDec_eq_some {p : Bytes}
    (h : sivDec Config.mac Config.e s.k1 s.k2 s.aadBytes s.srcBytes = some p) : s.decMatch = true ∧ s.decPlain = p := by
  rw [State.sivDec_eq] at h
  simpa using h

theorem sivDec_eq_none (h : sivDec Config.mac Config.e s.k1 s.k2 s.aadBytes s.srcBytes = none) :
    s.decMatch = false := by
  rw [State.sivDec_eq] at h
  simpa using h

/-- V after a match is the received IV, byte for byte (R209). -/
theorem blockBytes_decIvr (h : 16 ≤ s.srclen.toNat) : blockBytes s.decIvr = s.srcBytes.take 16 :=
  blockBytes_bytesBlock _ (by simp [h])

theorem toNat_srclen_sub_sixteen (h : 16 ≤ s.srclen.toNat) : (s.srclen - 16).toNat = s.srclen.toNat - 16 :=
  BitVec.toNat_sub_of_le (BitVec.le_def.2 h)

/-- Settles O31: SIV_DEC answers exactly on a match, and then with the plaintext that is written. -/
theorem sivDecryptWritesAuthenticPlaintext : Obligations.SivDecryptWritesAuthenticPlaintext := by
  intro s p hc hm hu hb a c hp
  obtain ⟨hmatch, rfl⟩ := sivDec_eq_some hp
  obtain ⟨-, h16, -⟩ := (decCheck_eq_none s).1 hc
  have ht := exec_sivDecrypt_of_undisturbed hc hu
  rw [runSivDecrypt_ok (busFails_noErrors _ _ hb) hmatch
    (busFails_noErrors _ _ (busRest_noErrors s.decPass1 _ hb))] at ht
  obtain ⟨hin, hout⟩ := Memory.writeBytes_range hm s.length_decPlain (writeSpan_inRange hc)
  exact ⟨_, ht, hin, hout, blockBytes_decIvr h16, toNat_srclen_sub_sixteen h16, rfl⟩

/-- Settles O32: whatever made SIV_DEC refuse, the end is that of a mismatch. -/
theorem sivDecryptMismatchExposesNothing : Obligations.SivDecryptMismatchExposesNothing := by
  intro s hc hu hb hp
  have ht := exec_sivDecrypt_of_undisturbed hc hu
  rw [runSivDecrypt_mismatch (busFails_noErrors _ _ hb) (sivDec_eq_none hp)] at ht
  exact ⟨_, ht, rfl⟩

end Sys2Proof.Machine
end

section
/-! PROOF. SIV_DECRYPT of what SIV_ENCRYPT wrote restores the message (R199, R212). -/

namespace Sys2Proof.Machine

variable {s r : State} {i : Instr}

/-- Calm surroundings disturb no command that is clear of the CSR window. -/
theorem State.Calm.undisturbed (h : s.Calm) (hr : s.raced = false)
    (hw : windowHit (s.writeSpan i :: s.readSpans i) = false) : s.Undisturbed i :=
  ⟨hw, by simp [State.hazard, h.devices, h.hostDirty, hr]⟩

/-- The item is no part of the output, so SIV_ENCRYPT leaves it as it was. -/
theorem readSpan_aadSpan_of_encrypted {mem : Memory} (hc : s.preCheck .sivEncrypt = none)
    (hout : ∀ x, ¬ s.encDst.has x → Memory.read mem x = Memory.read s.mem x) :
    Memory.readSpan mem s.aadSpan = s.aadBytes := by
  obtain ⟨-, -, -, ho⟩ := (encCheck_eq_none s).1 hc
  refine Memory.readBytes_congr fun k hk => hout _ fun hx => ?_
  rw [(Span.overlaps_iff_shared _ _).2 ⟨_, hx, by simp [Span.has, hk]⟩] at ho
  cases ho

/-- SIV_DEC of an input that is the output of SIV_ENCRYPT, under the same sub-keys and on the same item. -/
theorem sivDec_of_encOutput (h1 : r.k1 = s.k1) (h2 : r.k2 = s.k2) (ha : r.aadBytes = s.aadBytes)
    (hs : r.srcBytes = s.encOutput) :
    sivDec Config.mac Config.e r.k1 r.k2 r.aadBytes r.srcBytes = some s.srcBytes := by
  rw [h1, h2, ha, hs, s.encOutput_eq]
  exact sivDecryptionInvertsEncryption ..

/-- Settles O34: the decryption reads what the encryption wrote, the item is unchanged, and nothing disturbs either. -/
theorem encryptThenDecryptRestoresTheMessage : Obligations.EncryptThenDecryptRestoresTheMessage := by
  intro s t d2 hc hm hdev hdirty hbus hraced hw ht r hrc hrw
  have hcalm : s.Calm := ⟨hdev, hdirty, hbus⟩
  obtain ⟨mem, stale, ht', hwf, hin, hout⟩ :=
    exec_sivEncrypt_ok hc hm (hcalm.undisturbed hraced hw) (hcalm.busFails _)
  cases ht.symm.trans ht'
  have hlen : r.srclen.toNat = 16 + s.srclen.toNat := toNat_srclen_add_sixteen hc
  have hspan : r.srcSpan = s.encDst := by rw [State.srcSpan, hlen]; rfl
  have hsrc : r.srcBytes = s.encOutput := by rw [State.srcBytes, hspan]; exact hin
  have hrcalm : r.Calm := ⟨hdev, hdirty, busRest_noErrors _ _ hbus⟩
  have hru : r.Undisturbed .sivDecrypt := by
    refine hrcalm.undisturbed rfl ?_
    rw [State.readSpans, hspan]
    simp only [windowHit, List.any_cons, List.any_nil, Bool.or_false, Bool.or_eq_false_iff] at hw hrw ⊢
    obtain ⟨hdst, haad, -⟩ := hw
    exact ⟨hrw, hdst, haad⟩
  have hdec := sivDec_of_encOutput (s := s) (r := r) rfl rfl (readSpan_aadSpan_of_encrypted hc hout) hsrc
  obtain ⟨u, hu, hread, -, hv, hol, heq⟩ := sivDecryptWritesAuthenticPlaintext r _ hrc hwf hru hrcalm.busAnswers hdec
  rw [hlen, Nat.add_sub_cancel_left] at hread hol
  have hiv : u.v = s.encIv := by
    apply blockBytes_injective
    calc blockBytes u.v
      _ = r.srcBytes.take 16 := hv
      _ = s.encOutput.take 16 := by rw [hsrc]
      _ = blockBytes s.encIv := List.take_left' (length_blockBytes _)
  exact ⟨u, hu, hread, congrArg State.authOk heq, congrArg State.err heq, hiv, BitVec.eq_of_toNat_eq hol⟩

end Sys2Proof.Machine
end

section
/-! PROOF. Errors before a command's work begins: illegal words, and the pre-checks in their order (R231 to R233). -/

namespace Sys2Proof.Machine

variable {s : State} {i : Instr} {e : ErrCode}

/-- Settles O5: a word that the table does not assign runs no command. -/
theorem illegalWordHasNoOtherEffect : Obligations.IllegalWordHasNoOtherEffect := by
  refine ⟨rfl, fun s w rest hs hp hn hw => ?_⟩
  have hd : ¬ ∃ i, decode w = .ok i := by rwa [exists_decode_eq_ok_iff, not_and_or]
  rw [step_of_engineNext hn, engineStep_run (s := { s with inbox := rest }) hs hp, runCommand_illegal _ hd]
  rfl

/-! ### A failed pre-check (R232) -/

theorem exec_keyLoad_of_preCheck_eq_some (hc : s.preCheck .keyLoad = some e) :
    exec .keyLoad s = .next (State.raise e
      { s with
        keyW := zeroStaging, d := 0, s2vActive := false, items := 0, k1 := zeroKey, k2 := zeroKey,
        keyValid := false }) := by
  have hc : s.keyLoadCheck = some e := hc
  simp only [exec, execKeyLoad, hc]

/-- Settles O36, by the one outcome of a failed pre-check, and KEY_LOAD's. -/
theorem preCheckFailureChangesOnlyStatus : Obligations.PreCheckFailureChangesOnlyStatus := by
  intro s i e hc
  refine ⟨fun hi => exec_of_preCheck_eq_some hi hc, ?_⟩
  rintro rfl
  exact exec_keyLoad_of_preCheck_eq_some hc

/-! ### The order of the pre-checks (R231) -/

/-- The tests `l` that hold are those of the causes `C`, and they stand in the order of R231. -/
structure TestsInOrder (C : ErrCode → Prop) (l : List (Bool × ErrCode)) : Prop where
  cause_iff : ∀ e, C e ↔ (true, e) ∈ l
  order : l.Pairwise fun p q => p.2.priority ≤ q.2.priority

/-- In a list in the order of R231 the first test that holds names the first code whose test holds. -/
theorem firstError_eq_some {l : List (Bool × ErrCode)} (hl : l.Pairwise fun p q => p.2.priority ≤ q.2.priority)
    (h : firstError l = some e) : (true, e) ∈ l ∧ ∀ e', (true, e') ∈ l → e.priority ≤ e'.priority := by
  induction l with
  | nil => cases h
  | cons p l ih =>
    obtain ⟨hp, hl'⟩ := List.pairwise_cons.1 hl
    obtain ⟨b, c⟩ := p
    cases b with
    | true =>
      cases h
      refine ⟨List.mem_cons_self, fun e' he => ?_⟩
      obtain he | he := List.mem_cons.1 he
      · cases he; exact le_rfl
      · exact hp _ he
    | false =>
      obtain ⟨hm, hle⟩ := ih hl' h
      exact ⟨List.mem_cons_of_mem _ hm, fun e' he => hle e' (by simpa using he)⟩

theorem firstError_eq_none_iff_not_mem (l : List (Bool × ErrCode)) :
    firstError l = none ↔ ∀ e, (true, e) ∉ l := by
  rw [firstError_eq_none]
  refine ⟨fun h e he => absurd (h _ he) nofun, fun h ⟨b, e⟩ hp => ?_⟩
  cases b with
  | true => exact absurd hp (h e)
  | false => rfl

theorem Span.inRange_eq_false_iff (x : Span) : x.inRange = false ↔ 2 ^ 64 < x.base + x.len := by
  rw [← Bool.not_eq_true, Span.inRange_iff, Nat.not_le]

/-- Every pre-check is a list of tests, one for each cause of R231 that the command can meet: its list by definition, and
each code's cause against the test that names it. -/
theorem exists_testsInOrder (s : State) (i : Instr) :
    ∃ l, s.preCheck i = firstError l ∧ TestsInOrder (s.cause i) l := by
  cases i with
  | nop | keyClear | ivVerify =>
    exact ⟨[], rfl, fun e => by cases e <;> simp [State.cause, Instr.usesDma], .nil⟩
  | _ =>
    refine ⟨_, rfl, fun e => ?_, by simp [ErrCode.priority]⟩
    cases e <;> simp [State.cause, Instr.usesDma, Span.inRange_eq_false_iff, State.readSpans, State.writeSpan,
      or_comm, or_left_comm]

/-- Settles O37, by the list of tests of each pre-check. -/
theorem firstFailingPreCheckIsReported : Obligations.FirstFailingPreCheckIsReported := by
  intro s i
  obtain ⟨l, hc, hcause, horder⟩ := exists_testsInOrder s i
  simp only [hc, hcause]
  exact ⟨firstError_eq_none_iff_not_mem l, fun e => firstError_eq_some horder⟩

end Sys2Proof.Machine
end

section
/-! PROOF. The engine's turn completes the running command, or refuses it by name (R236, R258, R297). -/

namespace Sys2Proof.Machine

variable {s t : State} {i : Instr}

/-- Everything a command with DMA ranges can answer: a next state, or a refusal over the CSR window. -/
theorem dmaCommand_next_or_refused (check : Option ErrCode) (reads : List Span) (write : Span)
    (race run : State → State) (s : State) :
    (∃ t, dmaCommand check reads write race run s = .next t) ∨
      (dmaCommand check reads write race run s = .refused .csrWindowInBuffer ∧ check = none ∧
        windowHit (write :: reads) = true) := by
  cases check with
  | some e => exact .inl ⟨_, rfl⟩
  | none =>
    cases hw : windowHit (write :: reads) with
    | true => exact .inr ⟨(dmaCommand_refused_iff race run rfl).2 hw, rfl, rfl⟩
    | false =>
      cases hz : s.hazard reads write with
      | true => exact .inl ⟨_, dmaCommand_race race run rfl hw hz⟩
      | false => exact .inl ⟨_, dmaCommand_run race run rfl hw hz⟩

/-- No command faults, and only one with a buffer over the CSR window is refused (U6). -/
theorem exec_next_or_refused (i : Instr) (s : State) :
    (∃ t, exec i s = .next t) ∨
      (exec i s = .refused .csrWindowInBuffer ∧ s.preCheck i = none ∧
        windowHit (s.writeSpan i :: s.readSpans i) = true) := by
  by_cases hi : Instr.usesDma i
  · obtain rfl | rfl | rfl | rfl | rfl := hi <;> exact dmaCommand_next_or_refused ..
  · exact .inl (exec_next_of_not_usesDma hi)

/-- A command that answers a next state has completed and left the queue alone (R236). -/
theorem exec_completed (h : exec i s = .next t) : t.busy = false ∧ t.done = true ∧ t.inbox = s.inbox := by
  have hf := (exec_keeps h).frame
  exact ⟨(State.busy_eq_false_iff t).2 (congrArg State.stage hf :), (congrArg State.done hf :),
    (congrArg State.inbox hf :)⟩

/-- Settles O9: of the four things the engine's turn can be, an abort needs a pending soft reset. -/
theorem engineTurnHoldsOrCompletes : Obligations.EngineTurnHoldsOrCompletes := by
  intro s rest hn
  rw [step_of_engineNext hn]
  refine ⟨fun hb => engineStep_idle (s := { s with inbox := rest }) ((State.busy_eq_false_iff s).1 hb),
    fun hb hp => ?_⟩
  obtain ⟨hs, -⟩ | ⟨w, -, hp', -⟩ | ⟨w, i, hs, -, hd, he⟩ | ⟨w, e, -, -, -, he⟩ :=
    engineStep_cases { s with inbox := rest }
  · simp [(State.busy_eq_false_iff s).2 hs] at hb
  · cases hp.symm.trans hp'
  · rw [he]
    obtain ⟨t, ht⟩ | ⟨hr, hc, hw⟩ := exec_next_or_refused i { s with inbox := rest }
    · exact .inl ⟨t, ht, exec_completed ht⟩
    · exact .inr ⟨hr, i, running_of_stage hs hd, hc, hw⟩
  · exact .inl ⟨_, he, rfl, rfl, rfl⟩

end Sys2Proof.Machine
end

section
/-! PROOF. What a bus error leaves (R240). -/

namespace Sys2Proof.Machine

variable {s t : State} {i : Instr}

/-- `t` is what a bus error during the command `i` leaves of `s`: of what the command writes on success a free choice of
bytes has landed; the host's copies, the answers left and the number of draws are not said. -/
def State.BusErrorTo (s : State) (i : Instr) (t : State) : Prop :=
  ∃ stale answers draws, t =
    { s.busError with
      mem := Memory.writeSome (Config.freeBool s.draws) s.mem (s.writeSpan i).base 0 (s.output i)
      hostStale := stale, busAnswers := answers, draws := draws }

/-! ### Each command that uses DMA: without a bus error it keeps the code NONE of its acceptance -/

theorem runS2vAd_busErrorTo (hn : s.errCode = .none) (hb : (runS2vAd s).errCode = .busError) :
    s.BusErrorTo .s2vAd (runS2vAd s) := by
  cases h : busFails [s.srclen.toNat] s.busAnswers with
  | true => rw [runS2vAd_bus h]; exact ⟨_, _, _, rfl⟩
  | false => rw [runS2vAd_ok h] at hb; cases hn.symm.trans hb

theorem runS2vFinal_busErrorTo (hn : s.errCode = .none) (hb : (runS2vFinal s).errCode = .busError) :
    s.BusErrorTo .s2vFinal (runS2vFinal s) := by
  cases h : busFails [s.srclen.toNat] s.busAnswers with
  | true => rw [runS2vFinal_bus h]; exact ⟨_, _, _, rfl⟩
  | false => rw [runS2vFinal_ok h] at hb; cases hn.symm.trans hb

theorem runCtrXform_busErrorTo (hn : s.errCode = .none) (hb : (runCtrXform s).errCode = .busError) :
    s.BusErrorTo .ctrXform (runCtrXform s) := by
  cases h : busFails [s.srclen.toNat, s.srclen.toNat] s.busAnswers with
  | true => rw [runCtrXform_bus h]; exact ⟨_, _, _, rfl⟩
  | false => rw [runCtrXform_ok h] at hb; cases hn.symm.trans hb

theorem runSivEncrypt_busErrorTo (hn : s.errCode = .none) (hb : (runSivEncrypt s).errCode = .busError) :
    s.BusErrorTo .sivEncrypt (runSivEncrypt s) := by
  cases h : busFails [s.aadlen.toNat, s.srclen.toNat, s.srclen.toNat, 16 + s.srclen.toNat] s.busAnswers with
  | true =>
    rw [runSivEncrypt_bus h]
    dsimp only [State.BusErrorTo, State.output, State.writeSpan, State.encDst]
    exact ⟨_, _, _, rfl⟩
  | false => rw [runSivEncrypt_ok h] at hb; cases hn.symm.trans hb

/-- R209: a bus error in pass 1 comes before any write, one in pass 2 after a match. -/
theorem runSivDecrypt_busErrorTo (hn : s.errCode = .none) (hb : (runSivDecrypt s).errCode = .busError) :
    s.BusErrorTo .sivDecrypt (runSivDecrypt s) := by
  obtain h | ⟨h, hm⟩ | ⟨h, hm, h2⟩ | ⟨h, hm, h2⟩ := runSivDecrypt_cases s
  · have ho : s.output .sivDecrypt = [] := by simp [State.output, h]
    rw [runSivDecrypt_bus1 h, State.BusErrorTo, ho]
    exact ⟨_, _, _, rfl⟩
  · rw [runSivDecrypt_mismatch h hm] at hb
    cases hb
  · have ho : s.output .sivDecrypt = s.decPlain := by simp [State.output, h, hm]
    rw [runSivDecrypt_bus2 h hm h2, State.BusErrorTo, ho]
    exact ⟨_, _, _, rfl⟩
  · rw [runSivDecrypt_ok h hm h2] at hb
    cases hn.symm.trans hb

/-! ### Every command -/

/-- An undisturbed command with DMA ranges that ends in BUS_ERROR has passed its pre-check and run. -/
theorem dmaCommand_of_busError {P : State → Prop} {check : Option ErrCode} {reads : List Span} {write : Span}
    {race run : State → State} (h : dmaCommand check reads write race run s = .next t)
    (hz : s.hazard reads write = false) (he : check ≠ some .busError) (hb : t.errCode = .busError)
    (hrun : (run s).errCode = .busError → P (run s)) : check = none ∧ P t := by
  obtain ⟨e, hc, rfl⟩ | ⟨-, -, hz', -⟩ | ⟨hc, -, -, rfl⟩ := dmaCommand_next h
  · cases (State.raise_errCode s e).symm.trans hb
    exact absurd hc he
  · cases hz.symm.trans hz'
  · exact ⟨hc, hrun hb⟩

/-- Only a command that uses DMA and has passed its pre-check ends in BUS_ERROR. -/
theorem exec_busErrorTo (h : exec i s = .next t) (hu : s.Undisturbed i) (hn : s.errCode = .none)
    (hb : t.errCode = .busError) : s.preCheck i = none ∧ s.BusErrorTo i t := by
  have he : s.preCheck i ≠ some .busError := fun hc => preCheck_ne_busError hc rfl
  cases i with
  | nop | keyClear => cases h; cases hn.symm.trans hb
  | keyLoad =>
    cases (execKeyLoad_eq s).symm.trans h
    split at hb <;> simp [hn] at hb
  | s2vInit =>
    cases (execS2vInit_eq s).symm.trans h
    split at hb <;> simp [hn] at hb
  | ivVerify =>
    cases (execIvVerify_eq s).symm.trans h
    split at hb <;> simp [hn] at hb
  | s2vAd => exact dmaCommand_of_busError h hu.stable he hb (runS2vAd_busErrorTo hn)
  | s2vFinal => exact dmaCommand_of_busError h hu.stable he hb (runS2vFinal_busErrorTo hn)
  | ctrXform => exact dmaCommand_of_busError h hu.stable he hb (runCtrXform_busErrorTo hn)
  | sivEncrypt => exact dmaCommand_of_busError h hu.stable he hb (runSivEncrypt_busErrorTo hn)
  | sivDecrypt => exact dmaCommand_of_busError h hu.stable he hb (runSivDecrypt_busErrorTo hn)

/-- Settles O38: a partial write of the output leaves each byte of its range old or new, and no other byte changed. -/
theorem busErrorLeavesOldOrNewBytes : Obligations.BusErrorLeavesOldOrNewBytes := by
  intro s t i h hu hn hm hb
  obtain ⟨hc, stale, answers, draws, rfl⟩ := exec_busErrorTo h hu hn hb
  have hlen := s.length_output_le i
  have hspan := writeSpan_inRange hc
  refine ⟨rfl, rfl, rfl, rfl, rfl, rfl, rfl, rfl, rfl, fun x hx => ?_, fun j _ => ?_⟩
  · exact Memory.read_writeSome_out (by simp only [Span.has] at hx; omega)
  · refine (Memory.read_writeSome_cases hm (by omega) _).imp_right fun ⟨k, hk, ho⟩ => ?_
    cases Nat.add_left_cancel hk
    exact ho

end Sys2Proof.Machine
end

section
/-! PROOF. The CSR port's error response, reserved offsets, and the interrupt output (R249 to R252). -/

namespace Sys2Proof.Machine

variable {s : State} {off size : Nat} {w : Word} {rest : List Input}

/-- R252: an access that is not 32-bit, aligned and inside the window is refused, whether it writes or reads. -/
theorem step_badCsrAccess (h : ¬ (size = 4 ∧ off % 4 = 0 ∧ off < 0x1000))
    (hi : s.inbox = .csrWrite off size w :: rest ∨ s.inbox = .csrRead off size :: rest) :
    step s = .next { s with inbox := rest, resp := .slvErr } := by
  have hok : ¬ csrAccessOk off size = true := mt (csrAccessOk_iff off size).1 h
  obtain hi | hi := hi
  · rw [step_of_turn hi, turn, State.hostCsrWrite, if_neg hok]
  · rw [step_of_turn hi, turn, State.hostCsrRead, if_neg hok]

theorem ofOffset_reserved (h : off = 0x01C ∨ 0x0B0 ≤ off) : Csr.ofOffset off = .reserved := by
  obtain rfl | h := h
  · rfl
  · exact ofOffset_past h

/-- Settles O51: the refused accesses, and the two accesses at a reserved offset. -/
theorem badCsrAccessGetsErrorResponse : Obligations.BadCsrAccessGetsErrorResponse := by
  intro s off size w rest
  refine ⟨step_badCsrAccess, ?_⟩
  rintro rfl h4 h
  have hw : off < 0x1000 := by omega
  have hr : Csr.ofOffset off = .reserved := ofOffset_reserved (h.imp_right And.left)
  constructor
  · intro hi
    rw [step_csrWrite hi h4 hw, hr, writeCsr_readOnly rfl]
  · intro hi
    rw [step_csrRead hi h4 hw, hr, readCsr]

/-- Settles O55: IRQ_EN and DONE after each of these writes (R249). -/
theorem interruptIsEnableAndDone : Obligations.InterruptIsEnableAndDone := by
  refine fun s w => ⟨rfl, Bool.and_true _, fun h => ?_, Bool.and_false _, rfl, fun h h0 => ?_, fun h h0 => ?_⟩
  · simp [State.irq, writeStatus_eq, h]
  · rw [State.irq, writeCtrl_enable h, h0, Bool.true_and]
  · rw [State.irq, writeCtrl_enable h, h0, Bool.false_and]
    exact ⟨rfl, rfl⟩

end Sys2Proof.Machine
end

section
/-! PROOF. No CSR read and no load of memory depends on the key, the accumulator or the staged key (R254). -/

namespace Sys2Proof.Machine

variable {s t : State}

/-- `s` with other values of the four fields that hold secrets: K1, K2, D and the staging registers. -/
def State.withSecrets (k1 k2 : Key) (d : Block) (keyW : Vector Word 16) (s : State) : State :=
  { s with k1 := k1, k2 := k2, d := d, keyW := keyW }

variable (k1 k2 : Key) (d : Block) (keyW : Vector Word 16)

theorem readCsr_withSecrets (c : Csr) (s : State) : readCsr c (s.withSecrets k1 k2 d keyW) = readCsr c s := by
  cases c <;> rfl

theorem hostCsrRead_withSecrets (off size : Nat) (s : State) :
    (s.withSecrets k1 k2 d keyW).hostCsrRead off size = (s.hostCsrRead off size).withSecrets k1 k2 d keyW := by
  unfold State.hostCsrRead
  rw [readCsr_withSecrets]
  split <;> rfl

/-- While no command runs, memory shows no output that the key would decide. -/
theorem loadByte_withSecrets (hs : s.stage = .idle) (a : Nat) :
    (s.withSecrets k1 k2 d keyW).loadByte a = s.loadByte a := by
  have hs' : (s.withSecrets k1 k2 d keyW).stage = .idle := hs
  unfold State.loadByte
  rw [partialMem_idle hs, partialMem_idle hs']
  rfl

theorem hostLoad_withSecrets {a : DWord} {n : Nat} (hs : s.stage = .idle) (h : s.hostLoad a n = .next t) :
    (s.withSecrets k1 k2 d keyW).hostLoad a n = .next (t.withSecrets k1 k2 d keyW) := by
  obtain ⟨hr, hw, hd, hk⟩ := checkHostSpan_next h
  cases hk
  refine (checkHostSpan_ok (s := s.withSecrets k1 k2 d keyW) _ hr hw hd).trans ?_
  simp only [loadByte_withSecrets k1 k2 d keyW hs]
  rfl

/-- Settles O56: both kinds of turn commute with a change of the secrets. -/
theorem secretsCannotBeReadBack : Obligations.SecretsCannotBeReadBack := by
  intro s k1 k2 d keyW x rest hi hx s' t ht
  have hi' : s'.inbox = x :: rest := hi
  rw [step_of_turn hi] at ht
  rw [step_of_turn hi']
  obtain ⟨off, size, rfl⟩ | ⟨hb, a, n, rfl⟩ := hx
  · cases ht
    exact congrArg _ (hostCsrRead_withSecrets k1 k2 d keyW off size { s with inbox := rest })
  · exact hostLoad_withSecrets k1 k2 d keyW (s := { s with inbox := rest }) ((State.busy_eq_false_iff s).1 hb) ht

end Sys2Proof.Machine
end
